-- ==== Sys2Proof/Word.lean ====
section
/-! DEFINITION. The word types of the block (00_scope.md R5, 20_memory.md R23): every quantity is unsigned, bit 0 is
the least significant bit of each word, and words are transferred whole. -/

namespace Sys2Proof

/-- A request word, 64 bits (30_encoding.md R30). -/
abbrev ReqWord := BitVec 64

/-- A response word, 192 bits (30_encoding.md R37). -/
abbrev RespWord := BitVec 192

/-- A frame vector, 120 bits: the symbol at position p in bits [2p+1:2p] (30_encoding.md R42). -/
abbrev FrameVec := BitVec 120

/-- The BCD Encoder's input and the width of `RESULT` and `ERR_VALUE`, 32 bits (00_scope.md R5). -/
abbrev Value := BitVec 32

end Sys2Proof
end

