-- ==== Sys2Proof/Config.lean ====
section
/-! DEFINITION. What one instance of the block fixes when it is built (00_scope.md R4), and the one free value of the
model (70_reset_and_hazards.md R130). -/

namespace Sys2Proof

/-- `BCD_WIDTH`, the width N in bits of the BCD storage word: exactly the eight legal values of 00_scope.md R4. -/
inductive BcdWidth where
  | n4 | n8 | n12 | n16 | n20 | n24 | n28 | n32
  deriving DecidableEq, Repr

/-- N, in bits. -/
def BcdWidth.bits : BcdWidth → Nat
  | .n4 => 4
  | .n8 => 8
  | .n12 => 12
  | .n16 => 16
  | .n20 => 20
  | .n24 => 24
  | .n28 => 28
  | .n32 => 32

/-- The digit capacity D = N / 4 (00_scope.md R4). -/
def BcdWidth.digits (n : BcdWidth) : Nat := n.bits / 4

/-- The configuration of one instance: `BCD_WIDTH` is its only parameter (00_scope.md R4, 10_state.md R16). -/
structure Config where
  bcdWidth : BcdWidth
  deriving DecidableEq, Repr

/-- The default instance, N = 32 (00_scope.md R4). -/
def Config.default : Config := ⟨.n32⟩

/-- FREE VALUE (assumption log 5): whether the k-th reset that arrives while a request is being executed lets that
request complete (`true`) or discards it (`false`). 70_reset_and_hazards.md R130 admits both and picks neither, so
nothing constrains it. -/
opaque Config.resetCompletes : Nat → Bool

end Sys2Proof
end

