-- ==== Sys2Proof/Machine/State.lean ====
section
/-! DEFINITION. The state of the block (10_state.md R15), the inputs it takes and the types its rules speak of; plain
data throughout. What is computed over them stands in the other files of this folder. -/

namespace Sys2Proof.Machine

/-- A Symbol, one second of transmission (00_scope.md R8). -/
inductive Symbol where
  | low | high | mark
  deriving DecidableEq, Repr

/-- The status of a response (30_encoding.md R39). -/
inductive Status where
  | ok | numberTooLarge | fieldOutOfRange | illegalRequest | noFrame
  deriving DecidableEq, Repr

/-- Which field an error names (30_encoding.md R40). -/
inductive ErrField where
  | none | minute | hour | doy | year
  deriving DecidableEq, Repr

/-- An error a request can end with, with what it records (60_exceptions.md R111, R112, R113, R115). -/
inductive RequestError where
  | numberTooLarge (field : ErrField) (value : Value)
  | fieldOutOfRange (field : ErrField) (value : Value)
  | illegalRequest
  | noFrame
  deriving DecidableEq, Repr

/-- The fields of a response; one that a rule does not name is zero (30_encoding.md R37, R38). -/
structure Response where
  status : Status
  stale : Bool := false
  errField : ErrField := .none
  /-- `RESULT` or `ERR_VALUE`: the same 32 bits of the word. -/
  value : Value := 0#32
  frame : FrameVec := 0#120
  deriving DecidableEq, Repr

/-- The result of the BCD Encoder: an N-bit BcdValue, or an overflow that carries the input (40_bcd_encoder.md R50). -/
inductive BcdResult (N : Nat) where
  | ok (B : BitVec N)
  | overflow (v : Value)
  deriving DecidableEq, Repr

/-- A decimal weight `2^bit · 10^lane`, the weight of one bit of a BcdValue (40_bcd_encoder.md R54, R55). -/
structure Weight where
  lane : Nat
  bit : Fin 4
  deriving DecidableEq, Repr

/-- The four BcdValues a frame is laid out from: minute, hour, day of the year, two-digit year (41_frame_encoder.md
R85). -/
structure FieldBcds (N : Nat) where
  minute : BitVec N
  hour : BitVec N
  doy : BitVec N
  year : BitVec N
  deriving DecidableEq, Repr

/-- What the world can hand the block: a request word (30_encoding.md R30), a reset between requests, or a request
word during whose execution a reset arrives (70_reset_and_hazards.md R130). -/
inductive Input where
  | request (w : ReqWord)
  | reset
  | resetDuring (w : ReqWord)
  deriving DecidableEq, Repr

/-- The state. `frameReg`, `frameValid` and `frameStale` are the whole architectural state (10_state.md R15). `config`
is the instance's parameter, which nothing writes (R16; assumption log 1). `inputs` and `responses` are the two ports,
oldest first (assumption logs 3, 4). `freeCount` counts the free choices consumed (assumption log 5). -/
structure State where
  config : Config
  frameReg : FrameVec
  frameValid : Bool
  frameStale : Bool
  inputs : List Input
  responses : List RespWord
  freeCount : Nat
  deriving DecidableEq, Repr

/-- The block has no fault: "it does not stop, halt or reset the block" (60_exceptions.md R110), so there is no
constructor, nothing raises one, and that no step stops is the spec's own statement (assumption log 6: unsafe). -/
inductive Fault where
  deriving DecidableEq, Repr

/-- Refusals: none is ever answered, since every request has its meaning. -/
inductive Refusal where
  /-- Raised by `exec` for an instruction without a meaning; no arm raises it (safe: the machine would stop). -/
  | notModelled (mnemonic : String)
  deriving DecidableEq, Repr

/-- The default instance right after reset (70_reset_and_hazards.md R131; 00_scope.md R4): both flags 0, nothing
handed over and nothing answered. `FRAME_REG` has no value by the spec; the model names 0 (DESIGN CHOICE, assumption
log 2), which no request reads (42_frame_read.md R101). -/
def State.reset : State where
  config := Config.default
  frameReg := 0#120
  frameValid := false
  frameStale := false
  inputs := []
  responses := []
  freeCount := 0

end Sys2Proof.Machine
end

