-- ==== Sys2Proof/Machine/Bcd.lean ====
section
/-! DEFINITION. The BCD Encoder as a function (40_bcd_encoder.md R50) and the weighted-bit reads of its result (R54,
R55). -/

namespace Sys2Proof.Machine

/-- The loop of 40_bcd_encoder.md R50 with `room = D - k` digits of capacity left: `x` is what is left to convert,
`k` the digits extracted so far, `acc` the N-bit accumulator, `v` the input an overflow carries. -/
def bcdLoop (N : Nat) (v : Value) : (room k : Nat) → (x : Value) → (acc : BitVec N) → BcdResult N
  | 0, _, x, acc => if x = 0#32 then .ok acc else .overflow v
  | room + 1, k, x, acc =>
    if x = 0#32 then .ok acc
    else bcdLoop N v room (k + 1) (x / 10#32) (acc ||| ((x % 10#32).setWidth N <<< (4 * k)))

/-- `BCD(v)` for an N-bit storage word, D = N / 4 (40_bcd_encoder.md R50). -/
def bcd (N : Nat) (v : Value) : BcdResult N := bcdLoop N v (N / 4) 0 v 0#N

/-! ## Weighted bits -/

/-- The decimal weight as a number. -/
def Weight.value (w : Weight) : Nat := 2 ^ w.bit.val * 10 ^ w.lane

/-- `MASK(w)`: the single bit of that weight, zero where its lane does not exist in an N-bit word (40_bcd_encoder.md
R55). -/
def Weight.mask (N : Nat) (w : Weight) : BitVec N := BitVec.ofNat N (2 ^ w.bit.val) <<< (4 * w.lane)

/-- The weighted-bit read `bit(B, w)` (40_bcd_encoder.md R55). -/
def weightedBit {N : Nat} (B : BitVec N) (w : Weight) : Bool := B &&& w.mask N != 0#N

/-- The ten weights the Frame Encoder reads (40_bcd_encoder.md R55). -/
def w1 : Weight := ⟨0, 0⟩
def w2 : Weight := ⟨0, 1⟩
def w4 : Weight := ⟨0, 2⟩
def w8 : Weight := ⟨0, 3⟩
def w10 : Weight := ⟨1, 0⟩
def w20 : Weight := ⟨1, 1⟩
def w40 : Weight := ⟨1, 2⟩
def w80 : Weight := ⟨1, 3⟩
def w100 : Weight := ⟨2, 0⟩
def w200 : Weight := ⟨2, 1⟩

end Sys2Proof.Machine
end

