-- ==== Sys2Proof/Syntax.lean ====
section
/-! DEFINITION. The requests of the block as syntax: one constructor per row of spec/opcode_table.json. Each operand has
exactly the width of its field (00_scope.md R5, 30_encoding.md R32 to R35), so every term has an encoding. -/

namespace Sys2Proof

/-- A decoded request. -/
inductive Instr where
  /-- `BCD_ENC VALUE` (30_encoding.md R32). -/
  | bcdEnc (value : Value)
  /-- `FRAME_ENC MINUTE, HOUR, DOY, YEAR` (30_encoding.md R33). -/
  | frameEnc (minute hour : BitVec 8) (doy year : BitVec 16)
  /-- `FRAME_READ` (30_encoding.md R34). -/
  | frameRead
  deriving DecidableEq, Repr

end Sys2Proof
end

