-- ==== Sys2Proof/WellFormed.lean ====
section
/-! DEFINITION. Well-formedness. The check is on the written request, an assembly line with plain numbers (30_encoding.md
R43): an operand that does not fit its field has no encoding. A calendar range is no matter of form: a minute of 60 fits
its field and is refused by the block at run time (R43, 41_frame_encoder.md R76). -/

namespace Sys2Proof

/-- One line of the assembly language of 30_encoding.md R43, its numbers not yet cut to any width. -/
inductive SourceLine where
  | bcdEnc (value : Nat)
  | frameEnc (minute hour doy year : Nat)
  | frameRead
  /-- `.req`: any raw request word, illegal ones included. -/
  | req (word : Nat)
  deriving DecidableEq, Repr

/-- Every operand fits its field (30_encoding.md R43, R44). -/
def SourceLine.wellFormed : SourceLine → Bool
  | .bcdEnc v => v < 2 ^ 32
  | .frameEnc m h d y => m < 2 ^ 8 && h < 2 ^ 8 && d < 2 ^ 16 && y < 2 ^ 16
  | .frameRead => true
  | .req w => w < 2 ^ 64

/-- The line that stands for a request. -/
def Instr.toSource : Instr → SourceLine
  | .bcdEnc v => .bcdEnc v.toNat
  | .frameEnc m h d y => .frameEnc m.toNat h.toNat d.toNat y.toNat
  | .frameRead => .frameRead

/-- A request is well formed when its operands fit their fields. The operand types of `Instr` already say so: see
`Instr.wellFormed_eq_true` in Laws. -/
def Instr.wellFormed (i : Instr) : Bool := i.toSource.wellFormed

end Sys2Proof
end

