-- ==== Sys2Proof/Decode.lean ====
section
/-! DEFINITION. Decoding of request words (30_encoding.md R30 to R36), total on every 64-bit word and rejecting by name;
after it the encoder and the assembly of a source line (R44), and the opcode table as data. -/

namespace Sys2Proof

/-- Why a word is no request (30_encoding.md R36, 60_exceptions.md R113). -/
inductive Illegal where
  /-- OP = 00 with a bit of [31:2] set. -/
  | bcdEncReserved
  /-- OP = 01 with a bit of [7:2] or [63:56] set. -/
  | frameEncReserved
  /-- OP = 10 with a bit of [63:2] set. -/
  | frameReadReserved
  /-- OP = 11. -/
  | reservedOp
  deriving DecidableEq, Repr

/-- What a request word is: exactly one of a request or illegal (30_encoding.md R36). -/
inductive Decoded where
  | instr (i : Instr)
  | illegal (r : Illegal)
  deriving DecidableEq, Repr

/-! ## Fields (30_encoding.md R30, R35) -/

/-- `OP` = w[1:0]. -/
def reqOp (w : ReqWord) : BitVec 2 := w.extractLsb' 0 2

/-- `VALUE` = w[63:32]. -/
def reqValue (w : ReqWord) : Value := w.extractLsb' 32 32

/-- `MINUTE` = w[15:8]. -/
def reqMinute (w : ReqWord) : BitVec 8 := w.extractLsb' 8 8

/-- `HOUR` = w[23:16]. -/
def reqHour (w : ReqWord) : BitVec 8 := w.extractLsb' 16 8

/-- `DOY` = w[39:24]. -/
def reqDoy (w : ReqWord) : BitVec 16 := w.extractLsb' 24 16

/-- `YEAR` = w[55:40]. -/
def reqYear (w : ReqWord) : BitVec 16 := w.extractLsb' 40 16

/-! ## Decoding -/

/-- `decode` of 30_encoding.md R36, case by case in its order. -/
def decode (w : ReqWord) : Decoded :=
  if reqOp w = 0b00#2 then
    if w.extractLsb' 2 30 ≠ 0#30 then .illegal .bcdEncReserved
    else .instr (.bcdEnc (reqValue w))
  else if reqOp w = 0b01#2 then
    if w.extractLsb' 2 6 ≠ 0#6 ∨ w.extractLsb' 56 8 ≠ 0#8 then .illegal .frameEncReserved
    else .instr (.frameEnc (reqMinute w) (reqHour w) (reqDoy w) (reqYear w))
  else if reqOp w = 0b10#2 then
    if w.extractLsb' 2 62 ≠ 0#62 then .illegal .frameReadReserved
    else .instr .frameRead
  else .illegal .reservedOp

/-- The OP field of an illegal word, by its reason (30_encoding.md R36: `ILLEGAL(op)`). -/
def Illegal.op : Illegal → BitVec 2
  | .bcdEncReserved => 0b00#2
  | .frameEncReserved => 0b01#2
  | .frameReadReserved => 0b10#2
  | .reservedOp => 0b11#2

/-- A word as spec/opcode_table.json numbers it: bit 0 least significant, every bit at or above `nbits` zero. The block
takes the 64-bit word whole and has no byte order (20_memory.md R23). -/
def tableWord (nbits w : Nat) : ReqWord := BitVec.ofNat 64 (w % 2 ^ nbits)

/-- The request the decoder reads from a word numbered as the opcode table numbers it. -/
def decodeTableWord (nbits w : Nat) : Option Instr :=
  match decode (tableWord nbits w) with
  | .instr i => some i
  | .illegal _ => none

/-! ## Encoding -/

/-- The word of a request (30_encoding.md R44). -/
def encode : Instr → ReqWord
  | .bcdEnc v => v.setWidth 64 <<< 32
  | .frameEnc m h d y =>
    0x01#64 ||| (m.setWidth 64 <<< 8) ||| (h.setWidth 64 <<< 16) ||| (d.setWidth 64 <<< 24) ||| (y.setWidth 64 <<< 40)
  | .frameRead => 0x0000000000000002#64

/-- The assembler on one line: the line's word, or `none` where an operand does not fit its field (30_encoding.md R43,
R44). -/
def SourceLine.assemble (l : SourceLine) : Option ReqWord :=
  if l.wellFormed then
    some (match l with
      | .bcdEnc v => encode (.bcdEnc (BitVec.ofNat 32 v))
      | .frameEnc m h d y =>
        encode (.frameEnc (BitVec.ofNat 8 m) (BitVec.ofNat 8 h) (BitVec.ofNat 16 d) (BitVec.ofNat 16 y))
      | .frameRead => encode .frameRead
      | .req w => BitVec.ofNat 64 w)
  else none

/-! ## The opcode table -/

/-- One row of spec/opcode_table.json. -/
structure OpRow where
  mnemonic : String
  pattern : ReqWord
  mask : ReqWord
  deriving DecidableEq, Repr

/-- spec/opcode_table.json (30_encoding.md R31 to R34). -/
def opTable : List OpRow :=
  [ ⟨"BCD_ENC", 0x0000000000000000#64, 0x00000000FFFFFFFF#64⟩,
    ⟨"FRAME_ENC", 0x0000000000000001#64, 0xFF000000000000FF#64⟩,
    ⟨"FRAME_READ", 0x0000000000000002#64, 0xFFFFFFFFFFFFFFFF#64⟩ ]

/-- A word belongs to a row: `(w & mask) == match`. -/
def OpRow.covers (r : OpRow) (w : ReqWord) : Bool := w &&& r.mask == r.pattern

/-- The mnemonic of a request, as the table spells it. -/
def Instr.mnemonic : Instr → String
  | .bcdEnc _ => "BCD_ENC"
  | .frameEnc _ _ _ _ => "FRAME_ENC"
  | .frameRead => "FRAME_READ"

end Sys2Proof
end

