-- ==== Sys2Proof/Machine/Flags.lean ====
section
/-! DEFINITION. The two flags and the holding register: every way the block writes its architectural state
(10_state.md R12 to R15, 60_exceptions.md R114, 70_reset_and_hazards.md R131). -/

namespace Sys2Proof.Machine

/-- What a successful FRAME_ENC writes: FRAME_REG, FRAME_VALID = 1, FRAME_STALE = 0 (41_frame_encoder.md R86). -/
def State.keepFrame (v : FrameVec) (s : State) : State :=
  { s with frameReg := v, frameValid := true, frameStale := false }

/-- What a failed FRAME_ENC writes: FRAME_STALE = 1 and nothing else (41_frame_encoder.md R87). -/
def State.markStale (s : State) : State := { s with frameStale := true }

/-- Taking the reset input: FRAME_VALID and FRAME_STALE to 0, FRAME_REG to the value the model names for "no value"
(70_reset_and_hazards.md R131; assumption log 2). The instance's parameter is kept (R131), and so are the two ports,
which are the world's (assumption log 8). -/
def State.takeReset (s : State) : State :=
  { s with frameReg := State.reset.frameReg, frameValid := false, frameStale := false }

end Sys2Proof.Machine
end

