-- ==== Sys2Proof/Machine/Operands.lean ====
section
/-! DEFINITION. Operands and results: the codes and the layout of a response word (30_encoding.md R37 to R40), the
calendar checks and derived operands of FRAME_ENC (41_frame_encoder.md R76 to R78). -/

namespace Sys2Proof.Machine

/-! ## Codes -/

/-- The STATUS code (30_encoding.md R39). -/
def Status.code : Status → BitVec 3
  | .ok => 0#3
  | .numberTooLarge => 1#3
  | .fieldOutOfRange => 2#3
  | .illegalRequest => 3#3
  | .noFrame => 4#3

/-- The status of a code; 5 to 7 are never produced and are refused (30_encoding.md R39; 93 item 5). -/
def Status.ofCode (c : BitVec 3) : Option Status :=
  if c = 0#3 then some .ok
  else if c = 1#3 then some .numberTooLarge
  else if c = 2#3 then some .fieldOutOfRange
  else if c = 3#3 then some .illegalRequest
  else if c = 4#3 then some .noFrame
  else none

/-- The ERR_FIELD code (30_encoding.md R40). -/
def ErrField.code : ErrField → BitVec 3
  | .none => 0#3
  | .minute => 1#3
  | .hour => 2#3
  | .doy => 3#3
  | .year => 4#3

/-- The field of a code; 5 to 7 are never produced and are refused (30_encoding.md R40; 93 item 5). -/
def ErrField.ofCode (c : BitVec 3) : Option ErrField :=
  if c = 0#3 then some .none
  else if c = 1#3 then some .minute
  else if c = 2#3 then some .hour
  else if c = 3#3 then some .doy
  else if c = 4#3 then some .year
  else Option.none

/-! ## The response word -/

/-- The 192-bit word of a response, reserved bits zero (30_encoding.md R37). -/
def Response.toWord (r : Response) : RespWord :=
  r.status.code.setWidth 192
    ||| ((BitVec.ofBool r.stale).setWidth 192 <<< 3)
    ||| (r.errField.code.setWidth 192 <<< 4)
    ||| (r.value.setWidth 192 <<< 8)
    ||| (r.frame.setWidth 192 <<< 64)

/-- `STATUS` = r[2:0]. -/
def respStatus (r : RespWord) : BitVec 3 := r.extractLsb' 0 3

/-- `STALE` = r[3]. -/
def respStale (r : RespWord) : BitVec 1 := r.extractLsb' 3 1

/-- `ERR_FIELD` = r[6:4]. -/
def respErrField (r : RespWord) : BitVec 3 := r.extractLsb' 4 3

/-- `RESULT` or `ERR_VALUE` = r[39:8]. -/
def respValue (r : RespWord) : Value := r.extractLsb' 8 32

/-- `FRAME` = r[183:64]. -/
def respFrame (r : RespWord) : FrameVec := r.extractLsb' 64 120

/-- The reserved bits r[7], r[63:40] and r[191:184] are all 0. -/
def respReservedZero (r : RespWord) : Bool :=
  r.extractLsb' 7 1 == 0#1 && r.extractLsb' 40 24 == 0#24 && r.extractLsb' 184 8 == 0#8

/-- The requester's reading of a response word; a word the block never produces is refused (93 item 5). -/
def Response.ofWord (r : RespWord) : Option Response :=
  match Status.ofCode (respStatus r), ErrField.ofCode (respErrField r) with
  | some status, some errField =>
    if respReservedZero r then
      some { status, stale := respStale r == 1#1, errField, value := respValue r, frame := respFrame r }
    else none
  | _, _ => none

/-- The response of a request that ends in an error: status, ERR_FIELD and ERR_VALUE as the error records them, all
else zero (30_encoding.md R38; 60_exceptions.md R111, R112, R113, R115). -/
def RequestError.response : RequestError → Response
  | .numberTooLarge field value => { status := .numberTooLarge, errField := field, value }
  | .fieldOutOfRange field value => { status := .fieldOutOfRange, errField := field, value }
  | .illegalRequest => { status := .illegalRequest }
  | .noFrame => { status := .noFrame }

/-! ## Calendar operands -/

/-- The range check of 41_frame_encoder.md R76: the first field out of its range, in the order MINUTE, HOUR, DOY.
YEAR is not checked, and DOY = 366 is in range in every year. -/
def rangeError (minute hour : BitVec 8) (doy : BitVec 16) : Option RequestError :=
  if 59 < minute.toNat then some (.fieldOutOfRange .minute (minute.setWidth 32))
  else if 23 < hour.toNat then some (.fieldOutOfRange .hour (hour.setWidth 32))
  else if doy.toNat < 1 ∨ 366 < doy.toNat then some (.fieldOutOfRange .doy (doy.setWidth 32))
  else none

/-- The two-digit year `YEAR mod 100`, as the BCD Encoder's input (41_frame_encoder.md R77). -/
def twoDigitYear (year : BitVec 16) : Value := year.setWidth 32 % 100#32

/-- The Gregorian leap-year rule on the full year (41_frame_encoder.md R78). -/
def leapYear (year : BitVec 16) : Bool :=
  year.toNat % 4 == 0 && (year.toNat % 100 != 0 || year.toNat % 400 == 0)

end Sys2Proof.Machine
end

