-- ==== Sys2Proof/Machine/Ops.lean ====
section
/-! DEFINITION. The operations every request shares: answering with a response, ending in an error (the block's only
exception: a status in the response, 60_exceptions.md R110), answering an illegal word, and moving the input port on.
There is no return from an error: the next request simply runs (R110). -/

namespace Sys2Proof.Machine

/-- `respond` of 00_scope.md R7: the response word leaves the block, after every earlier one (20_memory.md R24). -/
def State.respond (r : Response) (s : State) : State := { s with responses := s.responses ++ [r.toWord] }

/-- `raise` of 00_scope.md R7 and 60_exceptions.md R110: the request ends with the error's response and writes no
architectural state. -/
def State.raise (e : RequestError) (s : State) : State := s.respond e.response

/-- A FRAME_ENC that ends in an error also sets FRAME_STALE (41_frame_encoder.md R87). -/
def State.failFrame (e : RequestError) (s : State) : State := s.markStale.raise e

/-- An illegal word: ILLEGAL_REQUEST, and FRAME_STALE is set exactly when OP = 01 (60_exceptions.md R113). -/
def State.answerIllegal (r : Illegal) (s : State) : State :=
  if r.op = 0b01#2 then s.failFrame .illegalRequest else s.raise .illegalRequest

/-- The inputs still to come. -/
def State.withInputs (l : List Input) (s : State) : State := { s with inputs := l }

/-- One free choice is consumed (assumption log 5). -/
def State.tick (s : State) : State := { s with freeCount := s.freeCount + 1 }

end Sys2Proof.Machine
end

