-- ==== Sys2Proof/Machine/BcdEnc.lean ====
section
/-! DEFINITION. The meaning of BCD_ENC (40_bcd_encoder.md R51). -/

namespace Sys2Proof.Machine

/-- `BCD_ENC VALUE`: RESULT is the BcdValue zero-extended to 32 bits, or NUMBER_TOO_LARGE with ERR_FIELD 0 and the
value; no architectural state is written (40_bcd_encoder.md R51). -/
def execBcdEnc (value : Value) (s : State) : Host.Outcome State Fault Refusal :=
  match bcd s.config.bcdWidth.bits value with
  | .ok B => .next (s.respond { status := .ok, value := B.setWidth 32 })
  | .overflow v => .next (s.raise (.numberTooLarge .none v))

end Sys2Proof.Machine
end

