-- ==== Sys2Proof/Machine/Frame.lean ====
section
/-! DEFINITION. The Frame Encoder as a function: symbols and frame vectors (30_encoding.md R41, R42), the layout
(41_frame_encoder.md R71), the order of checks and conversions (R76, R85), and the 60-state sequence a frame stands for
(R70). -/

namespace Sys2Proof.Machine

/-! ## Symbols and frame vectors -/

/-- The 2-bit code of a Symbol (30_encoding.md R41). -/
def Symbol.code : Symbol → BitVec 2
  | .low => 0b00#2
  | .high => 0b01#2
  | .mark => 0b10#2

/-- The Symbol of a code; 11 is never produced and is refused (30_encoding.md R41; 93 item 4). -/
def Symbol.ofCode (c : BitVec 2) : Option Symbol :=
  if c = 0b00#2 then some .low
  else if c = 0b01#2 then some .high
  else if c = 0b10#2 then some .mark
  else none

/-- `sym(b)` (00_scope.md R7). -/
def sym (b : Bool) : Symbol := if b then .high else .low

/-- The frame vector of symbols listed from position 0: `sum over p of code(F[p]) << (2p)` (30_encoding.md R42). -/
def packFrame : List Symbol → FrameVec
  | [] => 0#120
  | x :: xs => x.code.setWidth 120 ||| (packFrame xs <<< 2)

/-- The symbol at position p of a frame vector, bits [2p+1:2p] (30_encoding.md R42). -/
def symbolAt (v : FrameVec) (p : Nat) : Option Symbol := Symbol.ofCode (v.extractLsb' (2 * p) 2)

/-- The 60 symbols of a frame vector, or a refusal where a code is 11 (93 item 4). -/
def unpackFrame (v : FrameVec) : Option (List Symbol) := (List.range 60).mapM (symbolAt v)

/-! ## The layout, field by field in the order of 41_frame_encoder.md R71 -/

/-- Positions 1 to 8 (R73). -/
def minutesField {N : Nat} (B : BitVec N) : List Symbol :=
  [w40, w20, w10].map (fun w => sym (weightedBit B w)) ++ [.low]
    ++ [w8, w4, w2, w1].map (fun w => sym (weightedBit B w))

/-- Positions 12 to 18 (R74). -/
def hoursField {N : Nat} (B : BitVec N) : List Symbol :=
  [w20, w10].map (fun w => sym (weightedBit B w)) ++ [.low]
    ++ [w8, w4, w2, w1].map (fun w => sym (weightedBit B w))

/-- Positions 22 to 33: weight 80 at position 24 and the unused position at 25 (R75; 90_conflicts.md C3). -/
def doyField {N : Nat} (B : BitVec N) : List Symbol :=
  [w200, w100, w80].map (fun w => sym (weightedBit B w)) ++ [.low]
    ++ [w40, w20, w10].map (fun w => sym (weightedBit B w)) ++ [.mark]
    ++ [w8, w4, w2, w1].map (fun w => sym (weightedBit B w))

/-- Positions 45 to 53 (R77). -/
def yearField {N : Nat} (B : BitVec N) : List Symbol :=
  [w80, w40, w20, w10].map (fun w => sym (weightedBit B w)) ++ [.mark]
    ++ [w8, w4, w2, w1].map (fun w => sym (weightedBit B w))

/-- Positions 36 to 38, "+" (R79). -/
def dut1Sign : List Symbol := [.high, .low, .high]

/-- Positions 40 to 43, fixed at 0 (R80). -/
def dut1Magnitude : List Symbol := [.low, .low, .low, .low]

/-- Position 56, a placeholder (R81). -/
def leapSecondPending : Symbol := .low

/-- Positions 57 and 58, a placeholder (R82). -/
def dstStatus : List Symbol := [.low, .low]

/-- `layout(Bm, Bh, Bd, By, leap)`: the 60 symbols from position 0 (41_frame_encoder.md R71). -/
def layout {N : Nat} (f : FieldBcds N) (leap : Bool) : List Symbol :=
  [.mark] ++ minutesField f.minute ++ [.mark]
    ++ [.low, .low] ++ hoursField f.hour ++ [.mark]
    ++ [.low, .low] ++ doyField f.doy
    ++ [.low, .low] ++ dut1Sign ++ [.mark]
    ++ dut1Magnitude ++ [.low] ++ yearField f.year
    ++ [.low, sym leap, leapSecondPending] ++ dstStatus ++ [.mark]

/-! ## Encoding a timestamp -/

/-- The conversions in the order minute, hour, day of the year, two-digit year; the first overflow ends them
(41_frame_encoder.md R85). -/
def convertFields (N : Nat) (minute hour : BitVec 8) (doy year : BitVec 16) : Except RequestError (FieldBcds N) :=
  match bcd N (minute.setWidth 32) with
  | .overflow v => .error (.numberTooLarge .minute v)
  | .ok Bm =>
    match bcd N (hour.setWidth 32) with
    | .overflow v => .error (.numberTooLarge .hour v)
    | .ok Bh =>
      match bcd N (doy.setWidth 32) with
      | .overflow v => .error (.numberTooLarge .doy v)
      | .ok Bd =>
        match bcd N (twoDigitYear year) with
        | .overflow v => .error (.numberTooLarge .year v)
        | .ok By => .ok ⟨Bm, Bh, Bd, By⟩

/-- The frame vector of a timestamp, or the error FRAME_ENC reports: range check, then conversions, then layout
(41_frame_encoder.md R86; priority 60_exceptions.md R116). -/
def encodeFrame (N : Nat) (minute hour : BitVec 8) (doy year : BitVec 16) : Except RequestError FrameVec :=
  match rangeError minute hour doy with
  | some e => .error e
  | none =>
    match convertFields N minute hour doy year with
    | .error e => .error e
    | .ok f => .ok (packFrame (layout f (leapYear year)))

/-! ## The 60-state sequence -/

/-- The state after state p: p + 1, and none after 59 (41_frame_encoder.md R70). -/
def nextPosition (p : Nat) : Option Nat := if p < 59 then some (p + 1) else none

/-- The symbols emitted from state p on, for at most `fuel` states. -/
def emitFrom (v : FrameVec) : (fuel p : Nat) → List (Option Symbol)
  | 0, _ => []
  | fuel + 1, p =>
    symbolAt v p :: (match nextPosition p with
      | some q => emitFrom v fuel q
      | none => [])

end Sys2Proof.Machine
end

