-- ==== Sys2Proof/Machine/FrameEnc.lean ====
section
/-! DEFINITION. The meaning of FRAME_ENC (41_frame_encoder.md R86, R87). -/

namespace Sys2Proof.Machine

/-- `FRAME_ENC MINUTE, HOUR, DOY, YEAR`: the frame is kept and answered (41_frame_encoder.md R86), or the first error is
answered and FRAME_STALE set (R87). -/
def execFrameEnc (minute hour : BitVec 8) (doy year : BitVec 16) (s : State) : Host.Outcome State Fault Refusal :=
  match encodeFrame s.config.bcdWidth.bits minute hour doy year with
  | .ok v => .next ((s.keepFrame v).respond { status := .ok, frame := v })
  | .error e => .next (s.failFrame e)

end Sys2Proof.Machine
end

