-- ==== Sys2Proof/Machine/FrameRead.lean ====
section
/-! DEFINITION. The meaning of FRAME_READ (42_frame_read.md R100). -/

namespace Sys2Proof.Machine

/-- `FRAME_READ`: the last good frame and whether it is stale, or NO_FRAME while FRAME_VALID = 0; no architectural
state is written, and FRAME_REG is not read while FRAME_VALID = 0 (42_frame_read.md R100, R101). -/
def execFrameRead (s : State) : Host.Outcome State Fault Refusal :=
  if s.frameValid then .next (s.respond { status := .ok, stale := s.frameStale, frame := s.frameReg })
  else .next (s.raise .noFrame)

end Sys2Proof.Machine
end

