-- ==== Sys2Proof/Machine/Dispatch.lean ====
section
/-! DEFINITION. The dispatch: one arm per request. -/

namespace Sys2Proof.Machine

def exec (i : Instr) (s : State) : Host.Outcome State Fault Refusal :=
  match i with
  | .bcdEnc value => Sys2Proof.Machine.execBcdEnc value s
  | .frameEnc minute hour doy year => Sys2Proof.Machine.execFrameEnc minute hour doy year s
  | .frameRead => Sys2Proof.Machine.execFrameRead s

end Sys2Proof.Machine
end

