-- ==== Sys2Proof/Machine/Request.lean ====
section
/-! DEFINITION. Serving one input: a request word is decoded and then executed or answered as illegal (30_encoding.md
R36); a reset is taken between requests or while one executes (70_reset_and_hazards.md R130). -/

namespace Sys2Proof.Machine

/-- One whole request, atomically (20_memory.md R23): decode, then execute or answer ILLEGAL_REQUEST. -/
def serveWord (w : ReqWord) (s : State) : Host.Outcome State Fault Refusal :=
  match decode w with
  | .instr i => exec i s
  | .illegal r => .next (s.answerIllegal r)

/-- A reset that arrives while the request w is being executed: the request completes with its response and then the
reset is taken, or the request is discarded with no response and no state change and the reset is taken; a free value
picks (70_reset_and_hazards.md R130; assumption log 5). -/
def serveWordUnderReset (w : ReqWord) (s : State) : Host.Outcome State Fault Refusal :=
  if Config.resetCompletes s.freeCount then
    match serveWord w s.tick with
    | .next t => .next t.takeReset
    | .fault r => .fault r
    | .refused r => .refused r
  else .next s.tick.takeReset

/-- What one input does to the block. -/
def takeInput (a : Input) (s : State) : Host.Outcome State Fault Refusal :=
  match a with
  | .request w => serveWord w s
  | .reset => .next s.takeReset
  | .resetDuring w => serveWordUnderReset w s

end Sys2Proof.Machine
end

