-- ==== Sys2Proof/Machine/Step.lean ====
section
/-! DEFINITION. One step takes the oldest input, if there is one (20_memory.md R24). -/

namespace Sys2Proof.Machine

/-- One step: the oldest input is taken off the port and served whole before the next (20_memory.md R24); with no input
the block "holds its state unchanged" (60_exceptions.md R122; assumption log 3). -/
def step (s : State) : Host.Outcome State Fault Refusal :=
  match s.inputs with
  | [] => .next s
  | a :: rest => takeInput a (s.withInputs rest)

/-- s with the given request word as the next input: the requester hands it over first (assumption log 3). -/
def State.withFetchWord (s : State) (nbits w : Nat) : State :=
  s.withInputs (.request (tableWord nbits w) :: s.inputs)

end Sys2Proof.Machine
end

