-- ==== Sys2Proof/Machine/Assembler.lean ====
section
/-! DEFINITION. The text of the assembly language of 30_encoding.md R43, one request per line: mnemonics, decimal and
`0x` numbers, comma-separated operands, comments from `;`. How blanks and letter case are treated is the model's choice
(assumption log 11). -/

namespace Sys2Proof.Machine

/-- A space or a tab. -/
def isBlank (c : Char) : Bool := c == ' ' || c == '\t'

/-- The line up to its comment. -/
def dropComment (cs : List Char) : List Char := cs.takeWhile (· != ';')

/-- Without blanks at either end. -/
def trim (cs : List Char) : List Char := ((cs.dropWhile isBlank).reverse.dropWhile isBlank).reverse

/-- The value of a digit in bases up to 16. -/
def digitValue (base : Nat) (c : Char) : Option Nat :=
  let d := if '0' ≤ c ∧ c ≤ '9' then some (c.toNat - '0'.toNat)
    else if 'a' ≤ c ∧ c ≤ 'f' then some (c.toNat - 'a'.toNat + 10)
    else if 'A' ≤ c ∧ c ≤ 'F' then some (c.toNat - 'A'.toNat + 10)
    else none
  d.bind fun n => if n < base then some n else none

/-- The number that digits spell, most significant first, after `acc`. -/
def digitsValue (base : Nat) : (acc : Nat) → List Char → Option Nat
  | acc, [] => some acc
  | acc, c :: cs => (digitValue base c).bind fun n => digitsValue base (acc * base + n) cs

/-- A number: "decimal, or hexadecimal with a `0x` prefix" (30_encoding.md R43). -/
def numberValue : List Char → Option Nat
  | [] => none
  | '0' :: 'x' :: c :: cs => digitsValue 16 0 (c :: cs)
  | c :: cs => digitsValue 10 0 (c :: cs)

/-- The pieces between commas. -/
def splitCommas (cs : List Char) : List (List Char) :=
  cs.foldr (fun c acc => if c == ',' then [] :: acc else
    match acc with
    | [] => [[c]]
    | p :: ps => (c :: p) :: ps) [[]]

/-- The operands: none where the text is blank, else one number between commas each. -/
def operands (cs : List Char) : Option (List Nat) :=
  if trim cs = [] then some [] else (splitCommas cs).mapM fun p => numberValue (trim p)

/-- A mnemonic or directive with its operands (30_encoding.md R43). -/
def sourceLine (name : List Char) (args : List Nat) : Option SourceLine :=
  if name = "BCD_ENC".toList then
    match args with
    | [v] => some (.bcdEnc v)
    | _ => none
  else if name = "FRAME_ENC".toList then
    match args with
    | [m, h, d, y] => some (.frameEnc m h d y)
    | _ => none
  else if name = "FRAME_READ".toList then
    match args with
    | [] => some .frameRead
    | _ => none
  else if name = ".req".toList then
    match args with
    | [w] => some (.req w)
    | _ => none
  else none

/-- One line of text: the request lines it holds (none where it is blank or a comment), or a refusal. -/
def parseLine (cs : List Char) : Option (List SourceLine) :=
  let t := trim (dropComment cs)
  if t = [] then some []
  else do
    let args ← operands (t.dropWhile fun c => !isBlank c)
    let l ← sourceLine (t.takeWhile fun c => !isBlank c) args
    some [l]

/-- The words of a program, one line of text each; refused where a line is not of the language or an operand does not
fit its field (30_encoding.md R43, R44). -/
def assembleProgram (lines : List String) : Option (List ReqWord) := do
  let parsed ← lines.mapM fun l => parseLine l.toList
  parsed.flatten.mapM SourceLine.assemble

end Sys2Proof.Machine
end

