-- ==== Sys2Proof/Safety.lean ====
section
/-! DEFINITION. The terms statements are written in: decimal digits and calendar ranges as plain arithmetic, the
position table of 41_frame_encoder.md R72 written apart from the machine's layout, what a legal response is, and the
invariant a safe state meets. -/

namespace Sys2Proof.Machine

/-! ## Decimal arithmetic -/

/-- Decimal digit k of v. -/
def decDigit (v k : Nat) : Nat := v / 10 ^ k % 10

/-- Whether the weight `c · 10^k` (c one of 1, 2, 4, 8; k at most 2) is in the decimal digits of v. -/
def decWeight (v weight : Nat) : Bool :=
  let p := if weight < 10 then 1 else if weight < 100 then 10 else 100
  v / p % 10 / (weight / p) % 2 == 1

/-- Lane k of a word that holds packed decimal digits, bits [4k+3:4k] (20_memory.md R21). -/
def lane {N : Nat} (B : BitVec N) (k : Nat) : Nat := (B.extractLsb' (4 * k) 4).toNat

/-- `BCD_DECODE(B)`: the sum over k < D of lane k times 10^k (40_bcd_encoder.md R56). -/
def bcdDecode {N : Nat} (B : BitVec N) : Nat := ((List.range (N / 4)).map fun k => lane B k * 10 ^ k).sum

/-- The value has at most D decimal digits, D the digit capacity of the instance (40_bcd_encoder.md R52). -/
abbrev Fits (n : BcdWidth) (v : Nat) : Prop := v < 10 ^ n.digits

/-! ## Calendar -/

/-- The three checked fields are in range (41_frame_encoder.md R76). -/
abbrev InRange (minute hour : BitVec 8) (doy : BitVec 16) : Prop :=
  minute.toNat ≤ 59 ∧ hour.toNat ≤ 23 ∧ 1 ≤ doy.toNat ∧ doy.toNat ≤ 366

/-- All four numbers given to the BCD Encoder fit the instance (41_frame_encoder.md R85). -/
abbrev FieldsFit (n : BcdWidth) (minute hour : BitVec 8) (doy year : BitVec 16) : Prop :=
  Fits n minute.toNat ∧ Fits n hour.toNat ∧ Fits n doy.toNat ∧ Fits n (year.toNat % 100)

/-- The Gregorian rule: divisible by 4, not by 100 unless also by 400 (41_frame_encoder.md R78). -/
abbrev Gregorian (year : Nat) : Prop := 4 ∣ year ∧ (¬ 100 ∣ year ∨ 400 ∣ year)

/-! ## The position table (41_frame_encoder.md R72): position, weight -/

def minutePositions : List (Nat × Nat) := [(1, 40), (2, 20), (3, 10), (5, 8), (6, 4), (7, 2), (8, 1)]
def hourPositions : List (Nat × Nat) := [(12, 20), (13, 10), (15, 8), (16, 4), (17, 2), (18, 1)]
def doyPositions : List (Nat × Nat) :=
  [(22, 200), (23, 100), (24, 80), (26, 40), (27, 20), (28, 10), (30, 8), (31, 4), (32, 2), (33, 1)]
def yearPositions : List (Nat × Nat) :=
  [(45, 80), (46, 40), (47, 20), (48, 10), (50, 8), (51, 4), (52, 2), (53, 1)]

/-- The seven markers (41_frame_encoder.md R84). -/
def markPositions : List Nat := [0, 9, 19, 29, 39, 49, 59]

/-- The unused positions (41_frame_encoder.md R83). -/
def unusedPositions : List Nat := [4, 10, 11, 14, 20, 21, 25, 34, 35, 44, 54]

/-- The symbol the table of 41_frame_encoder.md R72 gives position p for a timestamp. -/
def tableSymbol (minute hour doy year p : Nat) : Symbol :=
  if p ∈ markPositions then .mark
  else if p = 36 ∨ p = 38 then .high
  else if p = 55 then (if Gregorian year then .high else .low)
  else match minutePositions.lookup p, hourPositions.lookup p, doyPositions.lookup p, yearPositions.lookup p with
    | some w, _, _, _ => sym (decWeight minute w)
    | _, some w, _, _ => sym (decWeight hour w)
    | _, _, some w, _ => sym (decWeight doy w)
    | _, _, _, some w => sym (decWeight (year % 100) w)
    | none, none, none, none => .low

/-- The frame vector shows the table's symbols for this timestamp, all 60. -/
abbrev ShowsTimestamp (v : FrameVec) (minute hour : BitVec 8) (doy year : BitVec 16) : Prop :=
  ∀ p < 60, symbolAt v p = some (tableSymbol minute.toNat hour.toNat doy.toNat year.toNat p)

/-- The frame vector is the frame of some timestamp with its fields in range. -/
def EncodesTimestamp (v : FrameVec) : Prop :=
  ∃ minute hour doy year, InRange minute hour doy ∧ ShowsTimestamp v minute hour doy year

/-- The sum of the weights of a field's `High` positions (41_frame_encoder.md R88). -/
def fieldSum (v : FrameVec) (table : List (Nat × Nat)) : Nat :=
  (table.map fun pw => if symbolAt v pw.1 = some .high then pw.2 else 0).sum

/-- Markers, fixed patterns, placeholders and unused positions stand as 41_frame_encoder.md R79 to R84 say, and every
other position is `High` or `Low`. -/
structure FixedPositions (v : FrameVec) : Prop where
  sign : symbolAt v 36 = some .high ∧ symbolAt v 37 = some .low ∧ symbolAt v 38 = some .high
  magnitude : ∀ p ∈ [40, 41, 42, 43], symbolAt v p = some .low
  leapSecond : symbolAt v 56 = some .low
  dst : symbolAt v 57 = some .low ∧ symbolAt v 58 = some .low
  unused : ∀ p ∈ unusedPositions, symbolAt v p = some .low
  marks : ∀ p < 60, (symbolAt v p = some .mark ↔ p ∈ markPositions)
  sevenMarks : ((List.range 60).filter fun p => symbolAt v p = some .mark).length = 7
  others : ∀ p < 60, p ∉ markPositions → symbolAt v p = some .high ∨ symbolAt v p = some .low

/-- A FRAME_ENC that succeeds: it answers a next state and FRAME_STALE is 0 there, which a failed one sets to 1
(41_frame_encoder.md R86, R87). -/
abbrev FrameEncSucceeds (minute hour : BitVec 8) (doy year : BitVec 16) (s t : State) : Prop :=
  exec (.frameEnc minute hour doy year) s = .next t ∧ t.frameStale = false

/-! ## Serving one request -/

/-- The oldest input is the request word w, the block serves it in one step and answers r. -/
abbrev Serves (s : State) (w : ReqWord) (t : State) (r : RespWord) : Prop :=
  s.inputs.head? = some (.request w) ∧ step s = .next t ∧ t.responses = s.responses ++ [r]

/-- The word has a reserved bit of its format set, or its OP is 11 (30_encoding.md R31 to R34). -/
abbrev MalformedWord (w : ReqWord) : Prop :=
  (w.toNat % 4 = 0 ∧ w.toNat / 4 % 2 ^ 30 ≠ 0)
    ∨ (w.toNat % 4 = 1 ∧ (w.toNat / 4 % 2 ^ 6 ≠ 0 ∨ w.toNat / 2 ^ 56 ≠ 0))
    ∨ (w.toNat % 4 = 2 ∧ w.toNat / 4 ≠ 0)
    ∨ w.toNat % 4 = 3

/-! ## The invariant -/

/-- What a response of each status may carry (30_encoding.md R37 to R40): an OK response is a BCD result of decimal
digits, or a frame of a timestamp with nothing in RESULT; an error carries no frame. -/
def Response.Legal (r : Response) : Prop :=
  match r.status with
  | .ok => r.errField = .none
      ∧ ((r.frame = 0#120 ∧ r.stale = false ∧ ∀ k < 8, lane r.value k ≤ 9)
        ∨ (r.value = 0#32 ∧ EncodesTimestamp r.frame))
  | .numberTooLarge => r.frame = 0#120 ∧ r.stale = false
  | .fieldOutOfRange =>
      r.frame = 0#120 ∧ r.stale = false ∧ (r.errField = .minute ∨ r.errField = .hour ∨ r.errField = .doy)
  | .illegalRequest => r = { status := .illegalRequest }
  | .noFrame => r = { status := .noFrame }

/-- The word is the word of a legal response, so its reserved bits are 0 and its codes are ones the block produces. -/
def LegalResponseWord (w : RespWord) : Prop := ∃ r : Response, r.toWord = w ∧ r.Legal

/-- A safe state: a valid FRAME_REG holds the frame of some timestamp in range, and every response returned was legal. -/
structure SafeState (s : State) : Prop where
  frame : s.frameValid = true → EncodesTimestamp s.frameReg
  responses : ∀ w ∈ s.responses, LegalResponseWord w

end Sys2Proof.Machine
end

