-- ==== Sys2Proof/Certificates/Slice0/Obligations.lean ====
section
/-! DEFINITION. The statements for the provers. Each docstring names the rules of spec/ it comes from. A response is
written as the record of its fields (`Response.toWord`), a field that is not written being zero; what the word of that
record is, bit by bit, is `ResponseWordIsTheSumOfItsFields`. -/

open Sys2Proof Sys2Proof.Machine

/-! ## Encoding -/

/-- 30_encoding.md R36 and R44: decoding the word of a request gives the request, for every operand value. -/
def Obligations.DecodeOfEncodeIsTheRequest : Prop :=
  ∀ i : Instr, decode (encode i) = .instr i

/-- 30_encoding.md R30 to R36: a word that decodes to a request is the word of that request, so no bit is dropped and
no two words mean the same. -/
def Obligations.EncodeOfDecodeIsTheWord : Prop :=
  ∀ (w : ReqWord) (i : Instr), decode w = .instr i → encode i = w

/-- 30_encoding.md R36, over the word as a number: the four cases of OP, reserved bits and operand fields; an illegal
word is answered with ILLEGAL_REQUEST and touches state only where OP = 01, where it sets FRAME_STALE. -/
def Obligations.DecodeIsTheFourCases : Prop :=
  ∀ w : ReqWord, let n := w.toNat
    (n % 4 = 0 → decode w =
      if n / 4 % 2 ^ 30 ≠ 0 then .illegal .bcdEncReserved else .instr (.bcdEnc (BitVec.ofNat 32 (n / 2 ^ 32))))
    ∧ (n % 4 = 1 → decode w =
      if n / 4 % 2 ^ 6 ≠ 0 ∨ n / 2 ^ 56 ≠ 0 then .illegal .frameEncReserved
      else .instr (.frameEnc (BitVec.ofNat 8 (n / 2 ^ 8)) (BitVec.ofNat 8 (n / 2 ^ 16)) (BitVec.ofNat 16 (n / 2 ^ 24))
        (BitVec.ofNat 16 (n / 2 ^ 40))))
    ∧ (n % 4 = 2 → decode w = if n / 4 ≠ 0 then .illegal .frameReadReserved else .instr .frameRead)
    ∧ (n % 4 = 3 → decode w = .illegal .reservedOp)
    ∧ ∀ (r : Illegal) (s : State) (rest : List Input), decode w = .illegal r →
      step { s with inputs := .request w :: rest } = .next { s with
        inputs := rest
        frameStale := if n % 4 = 1 then true else s.frameStale
        responses := s.responses ++ [Response.toWord { status := .illegalRequest }] }

/-- 30_encoding.md R31 to R34 and spec/opcode_table.json: a word decodes to a request of a row exactly when the row's
match and mask cover it. -/
def Obligations.OpcodeRowsCoverExactlyTheirRequests : Prop :=
  ∀ r ∈ opTable, ∀ w : ReqWord, r.covers w = true ↔ ∃ i, decode w = .instr i ∧ i.mnemonic = r.mnemonic

/-- 30_encoding.md R32 to R34, R44: words written out from the encodings decode to the requests they stand for. -/
def Obligations.WrittenOutWordsDecode : Prop :=
  decode 0x0000007B00000000#64 = .instr (.bcdEnc 123#32)
    ∧ decode 0x0007E800640C2201#64 = .instr (.frameEnc 34#8 12#8 100#16 2024#16)
    ∧ decode 0x0000000000000002#64 = .instr .frameRead
    ∧ decode 0x0000007B80000000#64 = .illegal .bcdEncReserved
    ∧ decode 0x0107E800640C2201#64 = .illegal .frameEncReserved
    ∧ decode 0x8000000000000002#64 = .illegal .frameReadReserved
    ∧ decode 0xFFFFFFFFFFFFFFFF#64 = .illegal .reservedOp

/-- 30_encoding.md R43, R44: a line assembles to its word, and is refused exactly when an operand does not fit. -/
def Obligations.AssemblyGivesTheWordOfTheRule : Prop :=
  (∀ v, (SourceLine.bcdEnc v).assemble = if v < 2 ^ 32 then some (BitVec.ofNat 64 (v * 2 ^ 32)) else none)
    ∧ (∀ m h d y, (SourceLine.frameEnc m h d y).assemble =
      if m < 2 ^ 8 ∧ h < 2 ^ 8 ∧ d < 2 ^ 16 ∧ y < 2 ^ 16
      then some (BitVec.ofNat 64 (1 + m * 2 ^ 8 + h * 2 ^ 16 + d * 2 ^ 24 + y * 2 ^ 40)) else none)
    ∧ SourceLine.frameRead.assemble = some 2#64
    ∧ (∀ w, (SourceLine.req w).assemble = if w < 2 ^ 64 then some (BitVec.ofNat 64 w) else none)
    ∧ (SourceLine.frameEnc 34 12 100 2024).assemble = some 0x0007E800640C2201#64

/-- 30_encoding.md R37, R39, R40: the response word is the sum of its fields at their places, every other bit 0. -/
def Obligations.ResponseWordIsTheSumOfItsFields : Prop :=
  ∀ r : Response, r.toWord.toNat =
    (match r.status with
      | .ok => 0 | .numberTooLarge => 1 | .fieldOutOfRange => 2 | .illegalRequest => 3 | .noFrame => 4)
    + (if r.stale then 1 else 0) * 2 ^ 3
    + (match r.errField with
      | .none => 0 | .minute => 1 | .hour => 2 | .doy => 3 | .year => 4) * 2 ^ 4
    + r.value.toNat * 2 ^ 8 + r.frame.toNat * 2 ^ 64

/-- 30_encoding.md R37, R39, R40: every field of a response word is read back, and a word that is read is the word of
the record read. That codes 5 to 7 and set reserved bits are not read is the model's own choice (assumption log 7;
93_implementation_defined.md item 5). -/
def Obligations.ResponseWordsReadBack : Prop :=
  (∀ r : Response, Response.ofWord r.toWord = some r)
    ∧ ∀ (w : RespWord) (r : Response), Response.ofWord w = some r → r.toWord = w

/-- 30_encoding.md R42: a frame vector holds symbol p in bits [2p+1:2p], is the sum of its symbols' codes at those
places, reads back as its symbols, and the leading hexadecimal digit of every frame produced is 8. -/
def Obligations.FrameVectorHoldsSymbolsInPlace : Prop :=
  (∀ l : List Symbol, l.length = 60 →
    (packFrame l).toNat = ((List.range 60).map fun p => ((l[p]?.map fun x => x.code.toNat).getD 0) * 2 ^ (2 * p)).sum
    ∧ (∀ p < 60, symbolAt (packFrame l) p = l[p]?)
    ∧ unpackFrame (packFrame l) = some l)
  ∧ ∀ minute hour doy year s t, FrameEncSucceeds minute hour doy year s t → t.frameReg.toNat / 2 ^ 116 = 8

/-- 30_encoding.md R41: the codes of the three symbols, and code 11 is never produced. That the reader `Symbol.ofCode`
refuses code 11 is the model's own choice (assumption log 7; 93_implementation_defined.md item 4). -/
def Obligations.SymbolCodesNeverEleven : Prop :=
  (Symbol.code .low = 0b00#2 ∧ Symbol.code .high = 0b01#2 ∧ Symbol.code .mark = 0b10#2 ∧ Symbol.ofCode 0b11#2 = none)
  ∧ ∀ minute hour doy year s t, FrameEncSucceeds minute hour doy year s t →
      ∀ p < 60, t.frameReg.extractLsb' (2 * p) 2 ≠ 0b11#2

/-- 41_frame_encoder.md R70: the sequence of states from 0 emits the 60 symbols in position order and ends after state
59, however long it is let run. That a frame is the output of such a sequence is the spec's own reading (R70's mark,
92_eei_decisions.md D21), and that the sequence is a function of the finished vector is the model's (assumption log
10). -/
def Obligations.SequenceEmitsSixtySymbolsInOrder : Prop :=
  ∀ (v : FrameVec) (more : Nat), emitFrom v (60 + more) 0 = (List.range 60).map (symbolAt v)

/-! ## The BCD Encoder -/

/-- 40_bcd_encoder.md R52: overflow exactly from 10^D on, the digits otherwise, nothing above the last digit, the
thresholds of the table, and that every instance can overflow. -/
def Obligations.BcdOverflowsExactlyAtCapacity : Prop :=
  (∀ (n : BcdWidth) (v : Value),
    (10 ^ n.digits ≤ v.toNat → bcd n.bits v = .overflow v)
    ∧ (v.toNat < 10 ^ n.digits → ∃ B, bcd n.bits v = .ok B
      ∧ (∀ k < n.digits, lane B k = decDigit v.toNat k)
      ∧ ∀ i, 4 * (Nat.digits 10 v.toNat).length ≤ i → B.getLsbD i = false))
  ∧ [BcdWidth.n4, .n8, .n12, .n16, .n20, .n24, .n28, .n32].map (fun n => (n.bits, n.digits, 10 ^ n.digits)) =
    [(4, 1, 10), (8, 2, 100), (12, 3, 1000), (16, 4, 10000), (20, 5, 100000), (24, 6, 1000000), (28, 7, 10000000),
      (32, 8, 100000000)]
  ∧ ∀ n : BcdWidth, ∃ v, bcd n.bits v = .overflow v

/-- 40_bcd_encoder.md R53: zero converts to the all-zero BcdValue in every instance. -/
def Obligations.BcdOfZeroIsZero : Prop :=
  ∀ n : BcdWidth, bcd n.bits 0#32 = .ok 0

/-- 40_bcd_encoder.md R56: every value below 10^D converts, and decoding the BcdValue gives it back. -/
def Obligations.BcdDecodesBack : Prop :=
  ∀ (n : BcdWidth) (v : Value), v.toNat < 10 ^ n.digits → ∃ B, bcd n.bits v = .ok B ∧ bcdDecode B = v.toNat

/-- 40_bcd_encoder.md R54: lane k holds decimal digit k, lane codes 10 to 15 never occur, and bit 4k+b weighs
`2^b · 10^k`. -/
def Obligations.BcdLanesHoldDecimalDigits : Prop :=
  ∀ (n : BcdWidth) (v : Value) (B : BitVec n.bits), bcd n.bits v = .ok B →
    (∀ k < n.digits, lane B k = decDigit v.toNat k ∧ lane B k ≤ 9)
    ∧ v.toNat = ((List.range n.digits).map fun k =>
        ((List.range 4).map fun b => (B.getLsbD (4 * k + b)).toNat * (2 ^ b * 10 ^ k)).sum).sum

/-- 40_bcd_encoder.md R55: a mask is the single bit of its weight, a weighted-bit read is that bit, it reads 0 where the
lane does not exist, and the ten masks the frame uses are those of the table. -/
def Obligations.WeightedBitReadsOneBit : Prop :=
  (∀ (n : BcdWidth) (B : BitVec n.bits) (w : Weight),
    (w.lane < n.digits → (w.mask n.bits).toNat = 2 ^ w.bit.val * 2 ^ (4 * w.lane)
      ∧ weightedBit B w = B.getLsbD (4 * w.lane + w.bit.val))
    ∧ (n.digits ≤ w.lane → weightedBit B w = false))
  ∧ [w1, w2, w4, w8, w10, w20, w40, w80, w100, w200].map (fun w => (w.value, (w.mask 32).toNat)) =
    [(1, 0x001), (2, 0x002), (4, 0x004), (8, 0x008), (10, 0x010), (20, 0x020), (40, 0x040), (80, 0x080), (100, 0x100),
      (200, 0x200)]

/-- 40_bcd_encoder.md R51, R52: BCD_ENC completes on every value; below 10^D RESULT holds the decimal digits, from 10^D
on it reports NUMBER_TOO_LARGE with the value; nothing else of the state changes. -/
def Obligations.BcdEncAnswersDigitsOrNumberTooLarge : Prop :=
  ∀ (v : Value) (s : State),
    (v.toNat < 10 ^ s.config.bcdWidth.digits → ∃ R : Value, (∀ k < 8, lane R k = decDigit v.toNat k)
      ∧ exec (.bcdEnc v) s =
        .next { s with responses := s.responses ++ [Response.toWord { status := .ok, value := R }] })
    ∧ (10 ^ s.config.bcdWidth.digits ≤ v.toNat → exec (.bcdEnc v) s =
        .next { s with responses := s.responses ++ [Response.toWord
          { status := .numberTooLarge, errField := .none, value := v }] })

/-- 10_state.md R17: BCD_ENC's response is a function of VALUE and N alone. -/
def Obligations.BcdEncDependsOnValueAndWidthOnly : Prop :=
  ∀ (v : Value) (s t : State), s.config = t.config → ∃ r,
    exec (.bcdEnc v) s = .next { s with responses := s.responses ++ [r] }
    ∧ exec (.bcdEnc v) t = .next { t with responses := t.responses ++ [r] }

/-! ## The Frame Encoder -/

/-- 41_frame_encoder.md R72, R86 and 30_encoding.md R42: in range and within capacity, FRAME_ENC completes: it keeps and
answers the frame whose 60 symbols are those of the position table, sets FRAME_VALID, clears FRAME_STALE, and changes
nothing else. -/
def Obligations.FrameEncKeepsAndAnswersTheTableFrame : Prop :=
  ∀ (minute hour : BitVec 8) (doy year : BitVec 16) (s : State),
    InRange minute hour doy → FieldsFit s.config.bcdWidth minute hour doy year →
    ∃ V : FrameVec,
      (∀ p < 60, V.extractLsb' (2 * p) 2 =
        (tableSymbol minute.toNat hour.toNat doy.toNat year.toNat p).code)
      ∧ exec (.frameEnc minute hour doy year) s = .next { s with
          frameReg := V, frameValid := true, frameStale := false,
          responses := s.responses ++ [Response.toWord { status := .ok, frame := V }] }

/-- 00_scope.md R6: from N = 12 on every in-range timestamp is encoded; with N = 8 a day of 100 or more, with N = 4 any
field of 10 or more, is reported as NUMBER_TOO_LARGE. -/
def Obligations.FrameEncNeedsTwelveBits : Prop :=
  ∀ (minute hour : BitVec 8) (doy year : BitVec 16) (s : State), InRange minute hour doy →
    (12 ≤ s.config.bcdWidth.bits → ∃ V, exec (.frameEnc minute hour doy year) s = .next { s with
      frameReg := V, frameValid := true, frameStale := false,
      responses := s.responses ++ [Response.toWord { status := .ok, frame := V }] })
    ∧ (s.config.bcdWidth = .n8 → 100 ≤ doy.toNat → exec (.frameEnc minute hour doy year) s = .next { s with
      frameStale := true,
      responses := s.responses ++ [Response.toWord
        { status := .numberTooLarge, errField := .doy, value := doy.setWidth 32 }] })
    ∧ (s.config.bcdWidth = .n4 →
        10 ≤ minute.toNat ∨ 10 ≤ hour.toNat ∨ 10 ≤ doy.toNat ∨ 10 ≤ year.toNat % 100 →
        ∃ f v, exec (.frameEnc minute hour doy year) s = .next { s with
          frameStale := true,
          responses := s.responses ++ [Response.toWord { status := .numberTooLarge, errField := f, value := v }] })

/-- 41_frame_encoder.md R76: the first of MINUTE, HOUR, DOY out of range is reported with its value, before any
conversion (so in every instance); with the three in range no FIELD_OUT_OF_RANGE is reported, whatever the YEAR. -/
def Obligations.FrameEncChecksRangesInOrder : Prop :=
  ∀ (minute hour : BitVec 8) (doy year : BitVec 16) (s : State),
    let fails := fun (f : ErrField) (v : Value) => exec (.frameEnc minute hour doy year) s = .next { s with
      frameStale := true,
      responses := s.responses ++ [Response.toWord { status := .fieldOutOfRange, errField := f, value := v }] }
    (59 < minute.toNat → fails .minute (BitVec.ofNat 32 minute.toNat))
    ∧ (minute.toNat ≤ 59 → 23 < hour.toNat → fails .hour (BitVec.ofNat 32 hour.toNat))
    ∧ (minute.toNat ≤ 59 → hour.toNat ≤ 23 → doy.toNat = 0 ∨ 366 < doy.toNat →
        fails .doy (BitVec.ofNat 32 doy.toNat))
    ∧ (InRange minute hour doy → ∃ t r, exec (.frameEnc minute hour doy year) s = .next t
        ∧ t.responses = s.responses ++ [r] ∧ respStatus r ≠ 2#3)

/-- 41_frame_encoder.md R85: after the range check the conversions run in the order minute, hour, day of the year,
two-digit year, and the first overflow is reported with the number given to the BCD Encoder; from N = 12 on none
overflows. -/
def Obligations.FrameEncReportsFirstOverflow : Prop :=
  ∀ (minute hour : BitVec 8) (doy year : BitVec 16) (s : State), InRange minute hour doy →
    let n := s.config.bcdWidth
    let fails := fun (f : ErrField) (v : Nat) => exec (.frameEnc minute hour doy year) s = .next { s with
      frameStale := true,
      responses := s.responses ++ [Response.toWord
        { status := .numberTooLarge, errField := f, value := BitVec.ofNat 32 v }] }
    (¬ Fits n minute.toNat → fails .minute minute.toNat)
    ∧ (Fits n minute.toNat → ¬ Fits n hour.toNat → fails .hour hour.toNat)
    ∧ (Fits n minute.toNat → Fits n hour.toNat → ¬ Fits n doy.toNat → fails .doy doy.toNat)
    ∧ (Fits n minute.toNat → Fits n hour.toNat → Fits n doy.toNat → ¬ Fits n (year.toNat % 100) →
        fails .year (year.toNat % 100))
    ∧ (12 ≤ n.bits → FieldsFit n minute hour doy year)

/-- 41_frame_encoder.md R78: in every successful frame position 55 is High exactly for a leap year by the Gregorian rule
on the full YEAR; 2024 is one, 2023 is not, year 0 is. -/
def Obligations.LeapYearIndicatorFollowsGregorianRule : Prop :=
  (∀ minute hour doy year s t, FrameEncSucceeds minute hour doy year s t →
    symbolAt t.frameReg 55 = some (if Gregorian year.toNat then .high else .low))
  ∧ Gregorian 2024 ∧ ¬ Gregorian 2023 ∧ Gregorian 0

/-- 41_frame_encoder.md R79 to R84: every successful frame has the fixed patterns, placeholders, unused positions and
exactly the seven markers; every mask read of a BcdValue 0 is 0. -/
def Obligations.SuccessfulFramesHaveFixedPositions : Prop :=
  (∀ minute hour doy year s t, FrameEncSucceeds minute hour doy year s t → FixedPositions t.frameReg)
  ∧ ∀ (n : BcdWidth) (w : Weight), weightedBit (0 : BitVec n.bits) w = false

/-- 41_frame_encoder.md R88: every successful frame has 60 symbols, its markers and fixed positions, and the weighted
bits of each field sum to the field's value. -/
def Obligations.SuccessfulFramesDecodeToTheirFields : Prop :=
  ∀ minute hour doy year s t, FrameEncSucceeds minute hour doy year s t →
    (∃ l, unpackFrame t.frameReg = some l ∧ l.length = 60)
    ∧ FixedPositions t.frameReg
    ∧ fieldSum t.frameReg minutePositions = minute.toNat
    ∧ fieldSum t.frameReg hourPositions = hour.toNat
    ∧ fieldSum t.frameReg doyPositions = doy.toNat
    ∧ fieldSum t.frameReg yearPositions = year.toNat % 100

/-- 41_frame_encoder.md R77, R78, R86: in one instance or two, two years with the same two digits give frames that differ
at most at position 55. -/
def Obligations.YearsAlikeDifferOnlyInLeapIndicator : Prop :=
  ∀ minute hour doy year year' s t s' t', FrameEncSucceeds minute hour doy year s t →
    FrameEncSucceeds minute hour doy year' s' t' → year.toNat % 100 = year'.toNat % 100 →
    ∀ p < 60, p ≠ 55 → symbolAt t.frameReg p = symbolAt t'.frameReg p

/-- 41_frame_encoder.md R87: a request word with OP = 01 that is answered with another status than OK sets FRAME_STALE
and changes nothing else; its status is one of the three failures and its response carries no frame; FRAME_READ then
answers the frame kept before, if any, with STALE = 1. -/
def Obligations.FailedFrameEncOnlyMarksStale : Prop :=
  ∀ (s t : State) (w : ReqWord) (r : RespWord), Serves s w t r → w.toNat % 4 = 1 → respStatus r ≠ 0#3 →
    t = { s with inputs := s.inputs.tail, frameStale := true, responses := s.responses ++ [r] }
    ∧ (respStatus r = 1#3 ∨ respStatus r = 2#3 ∨ respStatus r = 3#3) ∧ respFrame r = 0#120
    ∧ (s.frameValid = true → exec .frameRead t = .next { t with responses := t.responses ++
      [Response.toWord { status := .ok, stale := true, frame := s.frameReg }] })

/-! ## FRAME_READ -/

/-- 42_frame_read.md R100: FRAME_READ completes in every state: with FRAME_VALID = 1 it answers FRAME_REG and
FRAME_STALE, with FRAME_VALID = 0 NO_FRAME; nothing else of the state changes. -/
def Obligations.FrameReadAnswersFrameOrNoFrame : Prop :=
  ∀ s : State,
    (s.frameValid = true → exec .frameRead s = .next { s with responses := s.responses ++
      [Response.toWord { status := .ok, stale := s.frameStale, frame := s.frameReg }] })
    ∧ (s.frameValid = false → exec .frameRead s = .next { s with responses := s.responses ++
      [Response.toWord { status := .noFrame }] })

/-- 42_frame_read.md R102: after NO_FRAME the bits of FRAME, STALE, ERR_FIELD and ERR_VALUE are zero, also where
FRAME_STALE = 1. -/
def Obligations.NoFrameResponseIsOtherwiseZero : Prop :=
  ∀ (s t : State) (w : ReqWord) (r : RespWord), Serves s w t r → respStatus r = 4#3 →
    respFrame r = 0#120 ∧ respStale r = 0#1 ∧ respErrField r = 0#3 ∧ respValue r = 0#32

/-- 42_frame_read.md R101: over any number of steps, runs from two states that differ at most in FRAME_REG while
FRAME_VALID = 0 agree on every response and on all of the state but a FRAME_REG that is still not valid. -/
def Obligations.InvalidFrameRegIsNeverObserved : Prop :=
  ∀ (k : Nat) (s : State) (V : FrameVec), s.frameValid = false →
    ∃ t u : State, core.run k s = .next t ∧ core.run k { s with frameReg := V } = .next u
      ∧ u = { t with frameReg := u.frameReg } ∧ (t.frameValid = true → u.frameReg = t.frameReg)

/-- 42_frame_read.md R100 (corner cases): two FRAME_READ requests with any number of BCD_ENC requests between them are
answered alike. -/
def Obligations.FrameReadsAroundBcdEncAgree : Prop :=
  ∀ (s : State) (values : List Value), ∃ (t : State) (r : RespWord) (between : List RespWord),
    core.run (values.length + 2) { s with inputs := .request (encode .frameRead) ::
      (values.map fun v => .request (encode (.bcdEnc v))) ++ [.request (encode .frameRead)] } = .next t
    ∧ t.responses = s.responses ++ [r] ++ between ++ [r] ∧ between.length = values.length

/-- 41_frame_encoder.md R87, 42_frame_read.md R100 (90_conflicts.md C1): after a FRAME_ENC that succeeds and one that
fails, FRAME_READ answers the first one's frame with STALE = 1. -/
def Obligations.FailedMinuteIsReadBackAsStale : Prop :=
  ∀ minute hour doy year minute' hour' doy' year' s t u,
    FrameEncSucceeds minute hour doy year s t →
    exec (.frameEnc minute' hour' doy' year') t = .next u → u.frameStale = true →
    ∃ e, exec .frameRead u = .next { t with
      frameStale := true
      responses := t.responses ++ [e, Response.toWord { status := .ok, stale := true, frame := t.frameReg }] }

/-! ## Errors -/

/-- 60_exceptions.md R111: NUMBER_TOO_LARGE is the status exactly for a BCD_ENC value of 10^D or more, or for a FRAME_ENC
in range one of whose numbers does not fit (only possible with N < 12); it records the number, and the field. -/
def Obligations.NumberTooLargeExactlyOnOverflow : Prop :=
  ∀ (s t : State) (w : ReqWord) (r : RespWord), Serves s w t r →
    let n := s.config.bcdWidth
    (respStatus r = 1#3 ↔
      (∃ v, decode w = .instr (.bcdEnc v) ∧ 10 ^ n.digits ≤ v.toNat)
      ∨ ∃ m h d y, decode w = .instr (.frameEnc m h d y) ∧ InRange m h d ∧ ¬ FieldsFit n m h d y)
    ∧ (respStatus r = 1#3 → ∀ v, decode w = .instr (.bcdEnc v) → respErrField r = 0#3 ∧ respValue r = v)
    ∧ (respStatus r = 1#3 → ∀ m h d y, decode w = .instr (.frameEnc m h d y) → n.bits < 12
      ∧ ∃ fv ∈ [(1#3, m.toNat), (2#3, h.toNat), (3#3, d.toNat), (4#3, y.toNat % 100)],
          respErrField r = fv.1 ∧ (respValue r).toNat = fv.2 ∧ ¬ Fits n fv.2)

/-- 60_exceptions.md R112: FIELD_OUT_OF_RANGE is the status exactly for a FRAME_ENC with a field out of range, and it
records such a field and its value. -/
def Obligations.FieldOutOfRangeExactlyOnBadField : Prop :=
  ∀ (s t : State) (w : ReqWord) (r : RespWord), Serves s w t r →
    (respStatus r = 2#3 ↔ ∃ m h d y, decode w = .instr (.frameEnc m h d y) ∧ ¬ InRange m h d)
    ∧ (respStatus r = 2#3 → ∀ m h d y, decode w = .instr (.frameEnc m h d y) →
      (respErrField r = 1#3 ∧ 59 < m.toNat ∧ (respValue r).toNat = m.toNat)
      ∨ (respErrField r = 2#3 ∧ 23 < h.toNat ∧ (respValue r).toNat = h.toNat)
      ∨ (respErrField r = 3#3 ∧ (d.toNat = 0 ∨ 366 < d.toNat) ∧ (respValue r).toNat = d.toNat))

/-- 60_exceptions.md R113: ILLEGAL_REQUEST is the status exactly for OP = 11 or a set reserved bit; it records nothing,
runs no operation, and writes FRAME_STALE = 1 only where OP = 01. -/
def Obligations.IllegalRequestExactlyOnMalformedWords : Prop :=
  ∀ (s t : State) (w : ReqWord) (r : RespWord), Serves s w t r →
    (respStatus r = 3#3 ↔ MalformedWord w)
    ∧ (MalformedWord w → respErrField r = 0#3 ∧ respValue r = 0#32
      ∧ t = { s with
          inputs := s.inputs.tail
          frameStale := if w.toNat % 4 = 1 then true else s.frameStale
          responses := s.responses ++ [r] })

/-- 60_exceptions.md R115: NO_FRAME is the status exactly for FRAME_READ while FRAME_VALID = 0, and it records nothing. -/
def Obligations.NoFrameExactlyOnReadBeforeFrame : Prop :=
  ∀ (s t : State) (w : ReqWord) (r : RespWord), Serves s w t r →
    (respStatus r = 4#3 ↔ decode w = .instr .frameRead ∧ s.frameValid = false)
    ∧ (respStatus r = 4#3 → respErrField r = 0#3 ∧ respValue r = 0#32)

/-- 60_exceptions.md R116: every request reports exactly one status, the first that applies of ILLEGAL_REQUEST, the range
errors in the order MINUTE, HOUR, DOY, the overflows in the order MINUTE, HOUR, DOY, year (or VALUE), and NO_FRAME. -/
def Obligations.FirstCauseInPriorityIsReported : Prop :=
  (∀ (s : State) (w : ReqWord), s.inputs.head? = some (.request w) →
    let n := s.config.bcdWidth
    ∃ t r, Serves s w t r ∧ (respStatus r, respErrField r) =
      if MalformedWord w then (3#3, 0#3)
      else match decode w with
        | .illegal _ => (3#3, 0#3)
        | .instr (.bcdEnc v) => if Fits n v.toNat then (0#3, 0#3) else (1#3, 0#3)
        | .instr (.frameEnc m h d y) =>
          if 59 < m.toNat then (2#3, 1#3)
          else if 23 < h.toNat then (2#3, 2#3)
          else if d.toNat = 0 ∨ 366 < d.toNat then (2#3, 3#3)
          else if ¬ Fits n m.toNat then (1#3, 1#3)
          else if ¬ Fits n h.toNat then (1#3, 2#3)
          else if ¬ Fits n d.toNat then (1#3, 3#3)
          else if ¬ Fits n (y.toNat % 100) then (1#3, 4#3)
          else (0#3, 0#3)
        | .instr .frameRead => if s.frameValid then (0#3, 0#3) else (4#3, 0#3))
  ∧ ∀ s : State, exec (.frameEnc 60#8 24#8 0#16 2024#16) s = .next { s with
      frameStale := true,
      responses := s.responses ++ [Response.toWord
        { status := .fieldOutOfRange, errField := .minute, value := 60#32 }] }

/-- 30_encoding.md R38: fields the rule of the request does not name are zero: an OK of BCD_ENC carries only RESULT, an OK
of FRAME_ENC only the frame, an OK of FRAME_READ only the frame and STALE, an error no frame and no STALE, and
ILLEGAL_REQUEST and NO_FRAME nothing; the reserved bits are always zero. -/
def Obligations.UnnamedResponseFieldsAreZero : Prop :=
  ∀ (s t : State) (w : ReqWord) (r : RespWord), Serves s w t r →
    respReservedZero r = true
    ∧ (respStatus r ≠ 0#3 → respFrame r = 0#120 ∧ respStale r = 0#1)
    ∧ (respStatus r = 3#3 ∨ respStatus r = 4#3 → respErrField r = 0#3 ∧ respValue r = 0#32)
    ∧ (respStatus r = 0#3 → respErrField r = 0#3
      ∧ (w.toNat % 4 = 0 → respFrame r = 0#120 ∧ respStale r = 0#1)
      ∧ (w.toNat % 4 = 1 → respValue r = 0#32 ∧ respStale r = 0#1)
      ∧ (w.toNat % 4 = 2 → respValue r = 0#32))

/-! ## State and flags -/

/-- 60_exceptions.md R114: the state written by each outcome of a request, complete. -/
def Obligations.StateWrittenByEachOutcome : Prop :=
  ∀ (s t : State) (w : ReqWord) (r : RespWord), Serves s w t r →
    (t.frameReg, t.frameValid, t.frameStale) =
      if w.toNat % 4 = 1 then
        if respStatus r = 0#3 then (respFrame r, true, false) else (s.frameReg, s.frameValid, true)
      else (s.frameReg, s.frameValid, s.frameStale)

/-- 10_state.md R13: FRAME_VALID is 0 at reset, set by every successful FRAME_ENC (which puts its frame in FRAME_REG) and
by nothing else, cleared by nothing but a reset, and selects the status of FRAME_READ. -/
def Obligations.FrameValidIsSetBySuccessAndClearedByReset : Prop :=
  State.reset.frameValid = false
  ∧ (∀ s t, step s = .next t → s.frameValid = true → t.frameValid = false →
      s.inputs.head? = some .reset ∨ ∃ w, s.inputs.head? = some (.resetDuring w))
  ∧ (∀ s t, step s = .next t → s.frameValid = false → t.frameValid = true → ∃ w r, Serves s w t r
      ∧ w.toNat % 4 = 1 ∧ respStatus r = 0#3 ∧ t.frameReg = respFrame r)
  ∧ (∀ s t w r, Serves s w t r → w.toNat % 4 = 1 → respStatus r = 0#3 → t.frameValid = true)
  ∧ ∀ s t r, Serves s (encode .frameRead) t r → respStatus r = if s.frameValid then 0#3 else 4#3

/-- 10_state.md R14: FRAME_STALE is 0 at reset, set to 1 by every FRAME_ENC that does not end in OK (a malformed word with
OP = 01 included), cleared by every successful one, not touched by any other request, and copied into STALE by
FRAME_READ. -/
def Obligations.FrameStaleTellsWhetherLastFrameEncFailed : Prop :=
  State.reset.frameStale = false
  ∧ (∀ s t w r, Serves s w t r →
      t.frameStale = if w.toNat % 4 = 1 then decide (respStatus r ≠ 0#3) else s.frameStale)
  ∧ ∀ s t r, Serves s (encode .frameRead) t r → respStatus r = 0#3 → respStale r = BitVec.ofBool s.frameStale

/-- 00_scope.md R4: N is one of the eight legal values, D = N/4 exactly, the default is 32, and no step changes it. -/
def Obligations.BcdWidthIsLegalAndFixed : Prop :=
  (∀ s t, step s = .next t → t.config = s.config)
  ∧ (∀ N, (∃ n : BcdWidth, n.bits = N) ↔ N ∈ [4, 8, 12, 16, 20, 24, 28, 32])
  ∧ (∀ n : BcdWidth, 4 * n.digits = n.bits)
  ∧ State.reset.config.bcdWidth.bits = 32

/-- 60_exceptions.md R114, 10_state.md R12, R16, R17: no instruction changes the parameter, the inputs to come, the
responses already returned or the count of free choices, each adds exactly one response, and only FRAME_ENC can change
FRAME_REG, FRAME_VALID or FRAME_STALE. -/
def Obligations.InstructionsChangeNothingElse : Prop :=
  ∀ (i : Instr) (s t : State), exec i s = .next t →
    (∃ r, t = { s with frameReg := t.frameReg, frameValid := t.frameValid, frameStale := t.frameStale,
                       responses := s.responses ++ [r] })
    ∧ ((∀ m h d y, i ≠ .frameEnc m h d y) →
      t.frameReg = s.frameReg ∧ t.frameValid = s.frameValid ∧ t.frameStale = s.frameStale)

/-! ## Stepping -/

/-- 20_memory.md R23, R24: a request word that decodes to an instruction runs exactly that instruction, on the state with
the word taken off the input port. -/
def Obligations.StepRunsTheDecodedInstruction : Prop :=
  ∀ (s : State) (w : ReqWord) (rest : List Input) (i : Instr),
    s.inputs = .request w :: rest → decode w = .instr i → step s = exec i { s with inputs := rest }

/-- 60_exceptions.md R122: "Between requests it holds its state unchanged"; that a step without input is such a step is
the model's choice (assumption log 3). -/
def Obligations.StepWithoutInputHoldsState : Prop :=
  ∀ s : State, s.inputs = [] → step s = .next s

/-- 70_reset_and_hazards.md R130, R131: a reset between requests clears both flags, answers nothing, and the requests
after it are served next; that it keeps the ports as they are is the model's reading (assumption log 8). -/
def Obligations.ResetBetweenRequestsClearsFlags : Prop :=
  ∀ (s : State) (rest : List Input), s.inputs = .reset :: rest → ∃ V, step s = .next { s with
    inputs := rest, frameReg := V, frameValid := false, frameStale := false }

/-- 70_reset_and_hazards.md R130: a reset during a request lets it complete with its response and then resets, or
discards it without response or state change and resets; nothing says which, so the statement holds for either value of
the free choice (assumption log 5). -/
def Obligations.ResetDuringRequestCompletesOrDiscards : Prop :=
  ∀ (s : State) (w : ReqWord) (rest : List Input), s.inputs = .resetDuring w :: rest → ∃ V rs,
    step s = .next { s with inputs := rest, frameReg := V, frameValid := false, frameStale := false,
                            freeCount := s.freeCount + 1, responses := s.responses ++ rs }
    ∧ (rs = [] ∨ ∃ u r, Serves { s with inputs := .request w :: rest } w u r ∧ rs = [r])

/-- 70_reset_and_hazards.md R131, 00_scope.md R4: after reset both flags are 0 and the instance is the default one; that
nothing is waiting or answered is the model's choice (assumption logs 3, 4). -/
def Obligations.ResetLeavesFlagsClear : Prop :=
  State.reset.frameValid = false ∧ State.reset.frameStale = false ∧ State.reset.config.bcdWidth = .n32
    ∧ State.reset.inputs = [] ∧ State.reset.responses = []

/-- 20_memory.md R24, 10_state.md R10: every request word, legal or not, is served in one step and answered with exactly
one response, before the next is taken. -/
def Obligations.EveryRequestIsAnsweredOnce : Prop :=
  ∀ (s : State) (w : ReqWord) (rest : List Input), s.inputs = .request w :: rest →
    ∃ t r, step s = .next t ∧ t.responses = s.responses ++ [r] ∧ t.inputs = rest

/-- 20_memory.md R24, 60_exceptions.md R110, R123, 70_reset_and_hazards.md R135: no step stops; n steps use up n waiting
inputs and keep the responses already returned, and where the inputs are all requests they add n responses. In which
order is `InputsAreServedInOrder`. That a state with no input has a next state is the model's choice (assumption log 3),
and that the model has no fault and no refusal is read from R110 (assumption log 6). -/
def Obligations.AllWaitingInputsAreServed : Prop :=
  (∀ s : State, ∃ t, step s = .next t)
  ∧ ∀ s : State, ∃ (t : State) (added : List RespWord), core.run s.inputs.length s = .next t ∧ t.inputs = []
    ∧ t.responses = s.responses ++ added
    ∧ ((∀ a ∈ s.inputs, ∃ w, a = .request w) → added.length = s.inputs.length)

/-- 10_state.md R17, 20_memory.md R24: what a request answers and leaves in the state depends on earlier requests only
through FRAME_REG, FRAME_VALID and FRAME_STALE. -/
def Obligations.RequestsDependOnThreeElementsOnly : Prop :=
  ∀ (s s' t t' : State) (w : ReqWord) (r r' : RespWord), Serves s w t r → Serves s' w t' r' →
    s.config = s'.config → s.frameReg = s'.frameReg → s.frameValid = s'.frameValid → s.frameStale = s'.frameStale →
    r = r' ∧ t.frameReg = t'.frameReg ∧ t.frameValid = t'.frameValid ∧ t.frameStale = t'.frameStale

/-! ## The invariant -/

/-- The state after reset is safe: no frame is valid yet (70_reset_and_hazards.md R131, 42_frame_read.md R101); that
nothing has been answered there is the model's choice (assumption log 4). -/
def Obligations.ResetStateIsSafe : Prop :=
  SafeState State.reset

/-- 41_frame_encoder.md R84, R86, R88, 30_encoding.md R37 to R40: from every safe state a step leads to a safe one: a valid
FRAME_REG always holds a whole frame of an in-range timestamp, and every response returned is a legal one. -/
def Obligations.StepsKeepStatesSafe : Prop :=
  ∀ s t : State, SafeState s → step s = .next t → SafeState t

/-! ## Order -/

/-- 20_memory.md R24: after any number k of steps the k oldest inputs are gone and those after them still wait, the
responses returned before are kept, and k requests have k responses; and if the i-th input is a request, step i is the
one that serves it, on the state the inputs before it left, and answers it last. That the requests wait in a list is the
model's choice (assumption log 3). -/
def Obligations.InputsAreServedInOrder : Prop :=
  ∀ s : State,
    (∀ k, ∃ (t : State) (added : List RespWord), core.run k s = .next t ∧ t.inputs = s.inputs.drop k
      ∧ t.responses = s.responses ++ added
      ∧ ((∀ a ∈ s.inputs.take k, ∃ w, a = .request w) → added.length = min k s.inputs.length))
    ∧ ∀ (i : Nat) (w : ReqWord), s.inputs[i]? = some (.request w) → ∃ (t u : State) (r : RespWord),
      core.run i s = .next t ∧ core.run (i + 1) s = .next u ∧ Serves t w u r
end

