-- ==== Sys2Proof/Laws/Bcd.lean ====
section
/-! SUPPORT. The loop of the BCD Encoder in closed form, and the bits and lanes of packed digits. -/

namespace Sys2Proof.Machine

/-- The first `room` decimal digits of x, packed four bits each, units lowest. -/
def packedDigits : (room x : Nat) → Nat
  | 0, _ => 0
  | room + 1, x => x % 10 + 16 * packedDigits room (x / 10)

@[simp] theorem packedDigits_zero (room : Nat) : packedDigits room 0 = 0 := by
  induction room with
  | zero => rfl
  | succ room ih => simp [packedDigits, ih]

theorem packedDigits_lt (room x : Nat) : packedDigits room x < 16 ^ room := by
  induction room generalizing x with
  | zero => simp [packedDigits]
  | succ room ih => have := ih (x / 10); simp only [packedDigits, pow_succ]; omega

theorem packedDigits_div_mod (room x k : Nat) (hk : k < room) : packedDigits room x / 16 ^ k % 16 = decDigit x k := by
  induction room generalizing x k with
  | zero => omega
  | succ room ih =>
    cases k with
    | zero => simp only [packedDigits, decDigit, pow_zero, Nat.div_one]; omega
    | succ k =>
      have h := ih (x / 10) k (by omega)
      simp only [packedDigits, decDigit, pow_succ', ← Nat.div_div_eq_div_mul] at *
      rw [← h]; congr 2; omega

theorem ofNat_digit_add (N d P k : Nat) (hd : d < 16) :
    BitVec.ofNat N (d + 16 * P) <<< k = (BitVec.ofNat N d <<< k) ||| (BitVec.ofNat N P <<< (k + 4)) := by
  have h : d + 16 * P = P <<< 4 ||| d := by
    rw [Nat.shiftLeft_eq, ← Nat.mul_comm (2 ^ 4), ← Nat.two_pow_add_eq_or_of_lt hd]; omega
  rw [h]
  apply BitVec.eq_of_getLsbD_eq; intro i hi
  have e : i - k - 4 = i - (k + 4) := by omega
  simp only [BitVec.getLsbD_or, BitVec.getLsbD_shiftLeft, BitVec.getLsbD_ofNat, Nat.testBit_or,
    Nat.testBit_shiftLeft, hi, e]
  by_cases h1 : i < k <;> by_cases h2 : i < k + 4 <;> simp [h1, h2] <;> grind

/-- What the loop of 40_bcd_encoder.md R50 does from any point of it. -/
theorem bcdLoop_eq (N : Nat) (v : Value) (room k : Nat) (x : Value) (acc : BitVec N) :
    bcdLoop N v room k x acc =
      if x.toNat < 10 ^ room then .ok (acc ||| BitVec.ofNat N (packedDigits room x.toNat) <<< (4 * k))
      else .overflow v := by
  induction room generalizing k x acc with
  | zero =>
    have : x = 0#32 ↔ x.toNat < 1 := by rw [← BitVec.toNat_inj]; simp
    simp [bcdLoop, packedDigits, this]
  | succ room ih =>
    by_cases hx : x = 0#32
    · subst hx; simp [bcdLoop]
    · have hd : (x / 10#32).toNat = x.toNat / 10 := by simp
      have hm : ((x % 10#32).setWidth N) = BitVec.ofNat N (x.toNat % 10) := by
        apply BitVec.eq_of_toNat_eq; simp
      have hlt : x.toNat / 10 < 10 ^ room ↔ x.toNat < 10 ^ (room + 1) := by
        rw [Nat.div_lt_iff_lt_mul (by decide), pow_succ]
      simp only [bcdLoop, hx, if_false, ih, hd, hlt, packedDigits, hm]
      rw [ofNat_digit_add N _ _ _ (by omega), BitVec.or_assoc]
      rfl

/-- The BCD Encoder in closed form. -/
theorem bcd_eq (n : BcdWidth) (v : Value) :
    bcd n.bits v = if Fits n v.toNat then .ok (BitVec.ofNat n.bits (packedDigits n.digits v.toNat))
      else .overflow v := by
  simp only [bcd, bcdLoop_eq, Fits, BcdWidth.digits, BitVec.zero_or, Nat.mul_zero, BitVec.shiftLeft_zero]
  rfl

theorem four_mul_digits (n : BcdWidth) : 4 * n.digits = n.bits := by cases n <;> rfl

/-- The digits of a number that fits are zero from the capacity on. -/
theorem decDigit_eq_zero {n : BcdWidth} {v k : Nat} (hv : Fits n v) (hk : n.digits ≤ k) : decDigit v k = 0 := by
  have : v < 10 ^ k := lt_of_lt_of_le hv (Nat.pow_le_pow_right (by decide) hk)
  simp [decDigit, Nat.div_eq_of_lt this]

theorem packedDigits_testBit (room x i : Nat) :
    (packedDigits room x).testBit i = (decide (i < 4 * room) && (decDigit x (i / 4)).testBit (i % 4)) := by
  by_cases h : i < 4 * room
  · have hk : i / 4 < room := by omega
    have e : i = 4 * (i / 4) + i % 4 := by omega
    rw [← packedDigits_div_mod room x (i / 4) hk, show (16 : Nat) ^ (i / 4) = 2 ^ (4 * (i / 4)) by rw [pow_mul]; rfl,
      show (16 : Nat) = 2 ^ 4 by rfl, Nat.testBit_mod_two_pow, Nat.testBit_div_two_pow]
    have : i % 4 < 4 := by omega
    simp only [h, this, decide_true, Bool.true_and]
    congr 1; omega
  · have : packedDigits room x < 2 ^ i :=
      lt_of_lt_of_le (packedDigits_lt room x) (by
        rw [show (16 : Nat) = 2 ^ 4 by rfl, ← pow_mul]; exact Nat.pow_le_pow_right (by decide) (by omega))
    simp [h, Nat.testBit_lt_two_pow this]

/-- A weighted-bit read is the bit at the weight's place (40_bcd_encoder.md R55). -/
theorem weightedBit_eq_getLsbD {N : Nat} (B : BitVec N) (w : Weight) :
    weightedBit B w = B.getLsbD (4 * w.lane + w.bit.val) := by
  have key : B &&& w.mask N ≠ 0#N ↔ B.getLsbD (4 * w.lane + w.bit.val) = true := by
    have hmask : ∀ i, (w.mask N).getLsbD i = (decide (i < N) && decide (i = 4 * w.lane + w.bit.val)) := by
      intro i
      simp only [Weight.mask, BitVec.getLsbD_shiftLeft, BitVec.getLsbD_ofNat, Nat.testBit_two_pow]
      grind
    constructor
    · intro h
      by_contra hb
      apply h
      apply BitVec.eq_of_getLsbD_eq; intro i hi
      simp only [BitVec.getLsbD_and, hmask, BitVec.getLsbD_zero]
      grind
    · intro h hz
      have hlt := BitVec.lt_of_getLsbD h
      have := congrArg (fun b => b.getLsbD (4 * w.lane + w.bit.val)) hz
      simp only [BitVec.getLsbD_and, hmask, BitVec.getLsbD_zero, h] at this
      grind
  rw [Bool.eq_iff_iff, ← key, weightedBit, bne_iff_ne]

/-- Reading a weight of a converted number reads the number's own digit. -/
theorem weightedBit_packedDigits {n : BcdWidth} {v : Nat} (hv : Fits n v) (w : Weight) :
    weightedBit (BitVec.ofNat n.bits (packedDigits n.digits v)) w = (decDigit v w.lane).testBit w.bit.val := by
  have hb := w.bit.isLt
  rw [weightedBit_eq_getLsbD, BitVec.getLsbD_ofNat, packedDigits_testBit, ← four_mul_digits n,
    show (4 * w.lane + w.bit.val) / 4 = w.lane by omega, show (4 * w.lane + w.bit.val) % 4 = w.bit.val by omega]
  by_cases h : w.lane < n.digits
  · simp [show 4 * w.lane + w.bit.val < 4 * n.digits by omega]
  · simp [decDigit_eq_zero hv (by omega : n.digits ≤ w.lane)]

end Sys2Proof.Machine
end

