-- ==== Sys2Proof/Laws/Decode.lean ====
section
/-! SUPPORT. Well-formedness of requests, the OP field of encoded and of illegal words, and decoding inverted. -/

namespace Sys2Proof

/-- The operand types of `Instr` already say what the check asks. -/
theorem Instr.wellFormed_eq_true (i : Instr) : i.wellFormed = true := by
  cases i <;> simp [Instr.wellFormed, Instr.toSource, SourceLine.wellFormed] <;> omega

@[simp] theorem Illegal.op_eq_one_iff (r : Illegal) : r.op = 0b01#2 ↔ r = .frameEncReserved := by
  cases r <;> decide

/-- What decoding to a request says of the word, case by case (30_encoding.md R36). -/
theorem decode_instr_cases {w : ReqWord} {i : Instr} (h : decode w = .instr i) :
    (reqOp w = 0b00#2 ∧ w.extractLsb' 2 30 = 0#30 ∧ i = .bcdEnc (reqValue w))
    ∨ (reqOp w = 0b01#2 ∧ w.extractLsb' 2 6 = 0#6 ∧ w.extractLsb' 56 8 = 0#8
      ∧ i = .frameEnc (reqMinute w) (reqHour w) (reqDoy w) (reqYear w))
    ∨ (reqOp w = 0b10#2 ∧ w.extractLsb' 2 62 = 0#62 ∧ i = .frameRead) := by
  unfold decode at h
  split at h
  · split at h
    · cases h
    · cases h; simp_all
  · split at h
    · split at h
      · cases h
      · cases h; simp_all
    · split at h
      · split at h
        · cases h
        · cases h; simp_all
      · cases h

/-- An illegal word keeps the OP field its reason names (30_encoding.md R36: `ILLEGAL(op)`). -/
theorem decode_illegal_op {w : ReqWord} {r : Illegal} (h : decode w = .illegal r) : reqOp w = r.op := by
  have key : ∀ b : BitVec 2, b ≠ 0b00#2 → b ≠ 0b01#2 → b ≠ 0b10#2 → b = 0b11#2 := by decide
  unfold decode at h
  split at h
  · split at h
    · cases h; assumption
    · cases h
  · split at h
    · split at h
      · cases h; assumption
      · cases h
    · split at h
      · split at h
        · cases h; assumption
        · cases h
      · cases h; exact key _ ‹_› ‹_› ‹_›

/-- OP as a number is the word modulo 4. -/
theorem reqOp_toNat (w : ReqWord) : (reqOp w).toNat = w.toNat % 4 := by simp [reqOp]

end Sys2Proof
end

