-- ==== Sys2Proof/Laws/Frame.lean ====
section
/-! SUPPORT. Frame vectors read symbol by symbol, and FRAME_ENC's function in closed form. -/

namespace Sys2Proof.Machine

@[simp] theorem Symbol.ofCode_code (x : Symbol) : Symbol.ofCode x.code = some x := by cases x <;> rfl

theorem Symbol.code_of_ofCode {c : BitVec 2} {x : Symbol} (h : Symbol.ofCode c = some x) : x.code = c := by
  unfold Symbol.ofCode at h
  repeat' split at h
  all_goals first | (cases h; subst_vars; rfl) | cases h

/-- Bits [2p+1:2p] of a packed list hold symbol p. -/
theorem packFrame_extract (l : List Symbol) (p : Nat) (hp : p < l.length) (h60 : p < 60) :
    (packFrame l).extractLsb' (2 * p) 2 = (l[p]).code := by
  induction l generalizing p with
  | nil => simp at hp
  | cons x xs ih =>
    cases p with
    | zero =>
      apply BitVec.eq_of_getLsbD_eq; intro i hi
      simp [packFrame]
      grind
    | succ p =>
      have h := ih p (by simpa using hp) (by omega)
      rw [List.getElem_cons_succ, ← h]
      apply BitVec.eq_of_getLsbD_eq; intro i hi
      have e : 2 * (p + 1) + i - 2 = 2 * p + i := by omega
      have hc : x.code.getLsbD (2 * (p + 1) + i) = false := BitVec.getLsbD_of_ge _ _ (by omega)
      simp only [packFrame, BitVec.getLsbD_extractLsb', BitVec.getLsbD_or, BitVec.getLsbD_shiftLeft,
        BitVec.getLsbD_setWidth, hc, e]
      grind

theorem symbolAt_packFrame (l : List Symbol) (p : Nat) (hp : p < l.length) (h60 : p < 60) :
    symbolAt (packFrame l) p = some l[p] := by
  rw [symbolAt, packFrame_extract l p hp h60, Symbol.ofCode_code]

theorem layout_length {N : Nat} (f : FieldBcds N) (leap : Bool) : (layout f leap).length = 60 := by
  simp [layout, minutesField, hoursField, doyField, yearField, dut1Sign, dut1Magnitude, dstStatus]

@[simp] theorem twoDigitYear_toNat (year : BitVec 16) : (twoDigitYear year).toNat = year.toNat % 100 := by
  simp [twoDigitYear]; omega

theorem setWidth_byte_toNat (b : BitVec 8) : (b.setWidth 32).toNat = b.toNat := by simp; omega

theorem setWidth_half_toNat (b : BitVec 16) : (b.setWidth 32).toNat = b.toNat := by simp; omega

/-- The BcdValues of four numbers that fit. -/
def packedFields (n : BcdWidth) (minute hour : BitVec 8) (doy year : BitVec 16) : FieldBcds n.bits where
  minute := BitVec.ofNat _ (packedDigits n.digits minute.toNat)
  hour := BitVec.ofNat _ (packedDigits n.digits hour.toNat)
  doy := BitVec.ofNat _ (packedDigits n.digits doy.toNat)
  year := BitVec.ofNat _ (packedDigits n.digits (year.toNat % 100))

/-- The conversions in closed form: the first number that does not fit, or the four BcdValues (41_frame_encoder.md
R85). -/
theorem convertFields_eq (n : BcdWidth) (minute hour : BitVec 8) (doy year : BitVec 16) :
    convertFields n.bits minute hour doy year =
      if ¬ Fits n minute.toNat then .error (.numberTooLarge .minute (minute.setWidth 32))
      else if ¬ Fits n hour.toNat then .error (.numberTooLarge .hour (hour.setWidth 32))
      else if ¬ Fits n doy.toNat then .error (.numberTooLarge .doy (doy.setWidth 32))
      else if ¬ Fits n (year.toNat % 100) then .error (.numberTooLarge .year (twoDigitYear year))
      else .ok (packedFields n minute hour doy year) := by
  simp only [convertFields, bcd_eq, setWidth_byte_toNat, setWidth_half_toNat, twoDigitYear_toNat]
  by_cases hm : Fits n minute.toNat <;> simp only [hm, if_true, if_false, not_true, not_false_eq_true]
  by_cases hh : Fits n hour.toNat <;> simp only [hh, if_true, if_false, not_true, not_false_eq_true]
  by_cases hd : Fits n doy.toNat <;> simp only [hd, if_true, if_false, not_true, not_false_eq_true]
  by_cases hy : Fits n (year.toNat % 100) <;> simp only [hy, if_true, if_false, not_true, not_false_eq_true]
  rfl

theorem rangeError_eq_none_iff (minute hour : BitVec 8) (doy : BitVec 16) :
    rangeError minute hour doy = none ↔ InRange minute hour doy := by
  unfold rangeError InRange
  grind

/-- A successful encoding: the fields are in range and fit, and the frame is their layout. -/
theorem encodeFrame_ok_iff (n : BcdWidth) (minute hour : BitVec 8) (doy year : BitVec 16) (v : FrameVec) :
    encodeFrame n.bits minute hour doy year = .ok v ↔
      InRange minute hour doy ∧ FieldsFit n minute hour doy year
        ∧ v = packFrame (layout (packedFields n minute hour doy year) (leapYear year)) := by
  rw [encodeFrame, ← rangeError_eq_none_iff, convertFields_eq]
  cases rangeError minute hour doy with
  | some e => simp
  | none => simp only [true_and, FieldsFit]; grind

end Sys2Proof.Machine
end

