-- ==== Sys2Proof/Laws/Response.lean ====
section
/-! SUPPORT. Reading the fields of a response word back. -/

namespace Sys2Proof.Machine

@[simp] theorem Status.ofCode_code (x : Status) : Status.ofCode x.code = some x := by cases x <;> rfl

@[simp] theorem ErrField.ofCode_code (x : ErrField) : ErrField.ofCode x.code = some x := by cases x <;> rfl

theorem Status.code_of_ofCode {c : BitVec 3} {x : Status} (h : Status.ofCode c = some x) : x.code = c := by
  unfold Status.ofCode at h
  repeat' split at h
  all_goals first | (cases h; subst_vars; rfl) | cases h

theorem ErrField.code_of_ofCode {c : BitVec 3} {x : ErrField} (h : ErrField.ofCode c = some x) : x.code = c := by
  unfold ErrField.ofCode at h
  repeat' split at h
  all_goals first | (cases h; subst_vars; rfl) | cases h

@[simp] theorem respStatus_toWord (r : Response) : respStatus r.toWord = r.status.code := by
  apply BitVec.eq_of_getLsbD_eq; intro i hi
  simp [respStatus, Response.toWord]
  grind

@[simp] theorem respStale_toWord (r : Response) : respStale r.toWord = BitVec.ofBool r.stale := by
  apply BitVec.eq_of_getLsbD_eq; intro i hi
  simp [respStale, Response.toWord]
  grind

@[simp] theorem respErrField_toWord (r : Response) : respErrField r.toWord = r.errField.code := by
  apply BitVec.eq_of_getLsbD_eq; intro i hi
  simp [respErrField, Response.toWord]
  grind

@[simp] theorem respValue_toWord (r : Response) : respValue r.toWord = r.value := by
  apply BitVec.eq_of_getLsbD_eq; intro i hi
  simp [respValue, Response.toWord]
  grind

@[simp] theorem respFrame_toWord (r : Response) : respFrame r.toWord = r.frame := by
  apply BitVec.eq_of_getLsbD_eq; intro i hi
  simp [respFrame, Response.toWord]
  grind

@[simp] theorem respReservedZero_toWord (r : Response) : respReservedZero r.toWord = true := by
  simp only [respReservedZero, Bool.and_eq_true, beq_iff_eq]
  refine ⟨⟨?_, ?_⟩, ?_⟩ <;>
    (apply BitVec.eq_of_getLsbD_eq; intro i hi; simp [Response.toWord]; grind)

end Sys2Proof.Machine
end

