-- ==== Sys2Proof/Laws/State.lean ====
section
/-! SUPPORT. What each named update of the state does to each field, so that no proof unfolds a record update. -/

namespace Sys2Proof.Machine

@[simp] theorem State.respond_config (r : Response) (s : State) : (s.respond r).config = s.config := rfl
@[simp] theorem State.respond_frameReg (r : Response) (s : State) : (s.respond r).frameReg = s.frameReg := rfl
@[simp] theorem State.respond_frameValid (r : Response) (s : State) : (s.respond r).frameValid = s.frameValid := rfl
@[simp] theorem State.respond_frameStale (r : Response) (s : State) : (s.respond r).frameStale = s.frameStale := rfl
@[simp] theorem State.respond_inputs (r : Response) (s : State) : (s.respond r).inputs = s.inputs := rfl
@[simp] theorem State.respond_responses (r : Response) (s : State) : (s.respond r).responses = s.responses ++ [r.toWord] := rfl
@[simp] theorem State.respond_freeCount (r : Response) (s : State) : (s.respond r).freeCount = s.freeCount := rfl

@[simp] theorem State.raise_config (e : RequestError) (s : State) : (s.raise e).config = s.config := rfl
@[simp] theorem State.raise_frameReg (e : RequestError) (s : State) : (s.raise e).frameReg = s.frameReg := rfl
@[simp] theorem State.raise_frameValid (e : RequestError) (s : State) : (s.raise e).frameValid = s.frameValid := rfl
@[simp] theorem State.raise_frameStale (e : RequestError) (s : State) : (s.raise e).frameStale = s.frameStale := rfl
@[simp] theorem State.raise_inputs (e : RequestError) (s : State) : (s.raise e).inputs = s.inputs := rfl
@[simp] theorem State.raise_responses (e : RequestError) (s : State) : (s.raise e).responses = s.responses ++ [e.response.toWord] := rfl
@[simp] theorem State.raise_freeCount (e : RequestError) (s : State) : (s.raise e).freeCount = s.freeCount := rfl

@[simp] theorem State.failFrame_config (e : RequestError) (s : State) : (s.failFrame e).config = s.config := rfl
@[simp] theorem State.failFrame_frameReg (e : RequestError) (s : State) : (s.failFrame e).frameReg = s.frameReg := rfl
@[simp] theorem State.failFrame_frameValid (e : RequestError) (s : State) : (s.failFrame e).frameValid = s.frameValid := rfl
@[simp] theorem State.failFrame_frameStale (e : RequestError) (s : State) : (s.failFrame e).frameStale = true := rfl
@[simp] theorem State.failFrame_inputs (e : RequestError) (s : State) : (s.failFrame e).inputs = s.inputs := rfl
@[simp] theorem State.failFrame_responses (e : RequestError) (s : State) : (s.failFrame e).responses = s.responses ++ [e.response.toWord] := rfl
@[simp] theorem State.failFrame_freeCount (e : RequestError) (s : State) : (s.failFrame e).freeCount = s.freeCount := rfl

@[simp] theorem State.keepFrame_config (v : FrameVec) (s : State) : (s.keepFrame v).config = s.config := rfl
@[simp] theorem State.keepFrame_frameReg (v : FrameVec) (s : State) : (s.keepFrame v).frameReg = v := rfl
@[simp] theorem State.keepFrame_frameValid (v : FrameVec) (s : State) : (s.keepFrame v).frameValid = true := rfl
@[simp] theorem State.keepFrame_frameStale (v : FrameVec) (s : State) : (s.keepFrame v).frameStale = false := rfl
@[simp] theorem State.keepFrame_inputs (v : FrameVec) (s : State) : (s.keepFrame v).inputs = s.inputs := rfl
@[simp] theorem State.keepFrame_responses (v : FrameVec) (s : State) : (s.keepFrame v).responses = s.responses := rfl
@[simp] theorem State.keepFrame_freeCount (v : FrameVec) (s : State) : (s.keepFrame v).freeCount = s.freeCount := rfl

@[simp] theorem State.markStale_config (s : State) : (s.markStale).config = s.config := rfl
@[simp] theorem State.markStale_frameReg (s : State) : (s.markStale).frameReg = s.frameReg := rfl
@[simp] theorem State.markStale_frameValid (s : State) : (s.markStale).frameValid = s.frameValid := rfl
@[simp] theorem State.markStale_frameStale (s : State) : (s.markStale).frameStale = true := rfl
@[simp] theorem State.markStale_inputs (s : State) : (s.markStale).inputs = s.inputs := rfl
@[simp] theorem State.markStale_responses (s : State) : (s.markStale).responses = s.responses := rfl
@[simp] theorem State.markStale_freeCount (s : State) : (s.markStale).freeCount = s.freeCount := rfl

@[simp] theorem State.takeReset_config (s : State) : (s.takeReset).config = s.config := rfl
@[simp] theorem State.takeReset_frameReg (s : State) : (s.takeReset).frameReg = State.reset.frameReg := rfl
@[simp] theorem State.takeReset_frameValid (s : State) : (s.takeReset).frameValid = false := rfl
@[simp] theorem State.takeReset_frameStale (s : State) : (s.takeReset).frameStale = false := rfl
@[simp] theorem State.takeReset_inputs (s : State) : (s.takeReset).inputs = s.inputs := rfl
@[simp] theorem State.takeReset_responses (s : State) : (s.takeReset).responses = s.responses := rfl
@[simp] theorem State.takeReset_freeCount (s : State) : (s.takeReset).freeCount = s.freeCount := rfl

@[simp] theorem State.withInputs_config (l : List Input) (s : State) : (s.withInputs l).config = s.config := rfl
@[simp] theorem State.withInputs_frameReg (l : List Input) (s : State) : (s.withInputs l).frameReg = s.frameReg := rfl
@[simp] theorem State.withInputs_frameValid (l : List Input) (s : State) : (s.withInputs l).frameValid = s.frameValid := rfl
@[simp] theorem State.withInputs_frameStale (l : List Input) (s : State) : (s.withInputs l).frameStale = s.frameStale := rfl
@[simp] theorem State.withInputs_inputs (l : List Input) (s : State) : (s.withInputs l).inputs = l := rfl
@[simp] theorem State.withInputs_responses (l : List Input) (s : State) : (s.withInputs l).responses = s.responses := rfl
@[simp] theorem State.withInputs_freeCount (l : List Input) (s : State) : (s.withInputs l).freeCount = s.freeCount := rfl

@[simp] theorem State.tick_config (s : State) : (s.tick).config = s.config := rfl
@[simp] theorem State.tick_frameReg (s : State) : (s.tick).frameReg = s.frameReg := rfl
@[simp] theorem State.tick_frameValid (s : State) : (s.tick).frameValid = s.frameValid := rfl
@[simp] theorem State.tick_frameStale (s : State) : (s.tick).frameStale = s.frameStale := rfl
@[simp] theorem State.tick_inputs (s : State) : (s.tick).inputs = s.inputs := rfl
@[simp] theorem State.tick_responses (s : State) : (s.tick).responses = s.responses := rfl
@[simp] theorem State.tick_freeCount (s : State) : (s.tick).freeCount = s.freeCount + 1 := rfl

/-- The whole of an illegal word's effect, field by field (60_exceptions.md R113). -/
theorem State.answerIllegal_eq (r : Illegal) (s : State) :
    s.answerIllegal r = { s with
      frameStale := if r.op = 0b01#2 then true else s.frameStale
      responses := s.responses ++ [RequestError.illegalRequest.response.toWord] } := by
  unfold State.answerIllegal; split <;> simp_all [State.failFrame, State.raise, State.respond, State.markStale]

end Sys2Proof.Machine
end

