-- ==== Sys2Proof/Laws/Ops.lean ====
section
/-! SUPPORT. What each meaning, and each step, can do, said once: later proofs cite these and unfold nothing. -/

namespace Sys2Proof.Machine

/-- The response of BCD_ENC: a function of N and VALUE alone (40_bcd_encoder.md R51, 10_state.md R17). -/
def bcdEncResponse (n : BcdWidth) (v : Value) : Response :=
  if Fits n v.toNat then
    { status := .ok, value := (BitVec.ofNat n.bits (packedDigits n.digits v.toNat)).setWidth 32 }
  else (RequestError.numberTooLarge .none v).response

/-- BCD_ENC in closed form. -/
theorem execBcdEnc_eq (v : Value) (s : State) :
    execBcdEnc v s = .next (s.respond (bcdEncResponse s.config.bcdWidth v)) := by
  unfold execBcdEnc bcdEncResponse
  by_cases h : Fits s.config.bcdWidth v.toNat
  · simp only [bcd_eq, h, ↓reduceIte]
  · simp only [bcd_eq, h, ↓reduceIte]; rfl

/-- FRAME_ENC: a success keeps and answers the frame, a failure marks the last one stale. -/
theorem execFrameEnc_cases (m h : BitVec 8) (d y : BitVec 16) (s : State) :
    (∃ v, encodeFrame s.config.bcdWidth.bits m h d y = .ok v
      ∧ execFrameEnc m h d y s = .next ((s.keepFrame v).respond { status := .ok, frame := v }))
    ∨ ∃ e, encodeFrame s.config.bcdWidth.bits m h d y = .error e ∧ execFrameEnc m h d y s = .next (s.failFrame e) := by
  unfold execFrameEnc
  cases encodeFrame s.config.bcdWidth.bits m h d y with
  | ok v => exact .inl ⟨v, rfl, rfl⟩
  | error e => exact .inr ⟨e, rfl, rfl⟩

/-- The response of FRAME_READ (42_frame_read.md R100). -/
def frameReadResponse (s : State) : Response :=
  if s.frameValid then { status := .ok, stale := s.frameStale, frame := s.frameReg } else { status := .noFrame }

/-- FRAME_READ in closed form. -/
theorem execFrameRead_eq (s : State) : execFrameRead s = .next (s.respond (frameReadResponse s)) := by
  unfold execFrameRead frameReadResponse
  cases s.frameValid <;> rfl

/-- Every error FRAME_ENC can end with, in its priority, and the one success (41_frame_encoder.md R76, R85, R86). -/
theorem encodeFrame_cases (n : BcdWidth) (m h : BitVec 8) (d y : BitVec 16) :
    (InRange m h d ∧ FieldsFit n m h d y ∧ encodeFrame n.bits m h d y
      = .ok (packFrame (layout (packedFields n m h d y) (leapYear y))))
    ∨ (59 < m.toNat ∧ encodeFrame n.bits m h d y = .error (.fieldOutOfRange .minute (m.setWidth 32)))
    ∨ (m.toNat ≤ 59 ∧ 23 < h.toNat ∧ encodeFrame n.bits m h d y = .error (.fieldOutOfRange .hour (h.setWidth 32)))
    ∨ (m.toNat ≤ 59 ∧ h.toNat ≤ 23 ∧ (d.toNat = 0 ∨ 366 < d.toNat)
      ∧ encodeFrame n.bits m h d y = .error (.fieldOutOfRange .doy (d.setWidth 32)))
    ∨ (InRange m h d ∧ ¬ Fits n m.toNat
      ∧ encodeFrame n.bits m h d y = .error (.numberTooLarge .minute (m.setWidth 32)))
    ∨ (InRange m h d ∧ Fits n m.toNat ∧ ¬ Fits n h.toNat
      ∧ encodeFrame n.bits m h d y = .error (.numberTooLarge .hour (h.setWidth 32)))
    ∨ (InRange m h d ∧ Fits n m.toNat ∧ Fits n h.toNat ∧ ¬ Fits n d.toNat
      ∧ encodeFrame n.bits m h d y = .error (.numberTooLarge .doy (d.setWidth 32)))
    ∨ (InRange m h d ∧ Fits n m.toNat ∧ Fits n h.toNat ∧ Fits n d.toNat ∧ ¬ Fits n (y.toNat % 100)
      ∧ encodeFrame n.bits m h d y = .error (.numberTooLarge .year (twoDigitYear y))) := by
  simp only [encodeFrame, convertFields_eq, rangeError]
  by_cases h1 : 59 < m.toNat
  · simp [h1]
  by_cases h2 : 23 < h.toNat
  · simp [h1, h2]; omega
  by_cases h3 : d.toNat < 1 ∨ 366 < d.toNat
  · have h3' : d.toNat = 0 ∨ 366 < d.toNat := by omega
    simp [h1, h2, h3']; omega
  have hr : InRange m h d := by unfold InRange; omega
  simp only [h1, h2, h3, ↓reduceIte]
  by_cases f1 : Fits n m.toNat
  · by_cases f2 : Fits n h.toNat
    · by_cases f3 : Fits n d.toNat
      · by_cases f4 : Fits n (y.toNat % 100)
        · exact .inl ⟨hr, ⟨f1, f2, f3, f4⟩, by simp only [f1, f2, f3, f4, not_true, ↓reduceIte]⟩
        · exact .inr (.inr (.inr (.inr (.inr (.inr (.inr ⟨hr, f1, f2, f3, f4, by
            simp only [f1, f2, f3, f4, not_true, not_false_eq_true, ↓reduceIte]⟩))))))
      · exact .inr (.inr (.inr (.inr (.inr (.inr (.inl ⟨hr, f1, f2, f3, by
          simp only [f1, f2, f3, not_true, not_false_eq_true, ↓reduceIte]⟩))))))
    · exact .inr (.inr (.inr (.inr (.inr (.inl ⟨hr, f1, f2, by
        simp only [f1, f2, not_true, not_false_eq_true, ↓reduceIte]⟩)))))
  · exact .inr (.inr (.inr (.inr (.inl ⟨hr, f1, by simp only [f1, not_false_eq_true, ↓reduceIte]⟩))))

/-- A step in its four cases: no input, a request word, a reset, a reset during a request. -/
theorem step_cases {s t : State} (h : step s = .next t) :
    (s.inputs = [] ∧ t = s)
    ∨ (∃ w rest, s.inputs = .request w :: rest ∧ serveWord w (s.withInputs rest) = .next t)
    ∨ (∃ rest, s.inputs = .reset :: rest ∧ t = (s.withInputs rest).takeReset)
    ∨ ∃ w rest, s.inputs = .resetDuring w :: rest ∧ serveWordUnderReset w (s.withInputs rest) = .next t := by
  unfold step at h
  cases hi : s.inputs with
  | nil => rw [hi] at h; cases h; exact .inl ⟨rfl, rfl⟩
  | cons a rest =>
    rw [hi] at h
    cases a with
    | request w => exact .inr (.inl ⟨w, rest, rfl, h⟩)
    | reset => cases h; exact .inr (.inr (.inl ⟨rest, rfl, rfl⟩))
    | resetDuring w => exact .inr (.inr (.inr ⟨w, rest, rfl, h⟩))

/-- Serving a word is executing its request or answering that it is illegal. -/
theorem serveWord_cases (w : ReqWord) (s : State) :
    (∃ i, decode w = .instr i ∧ serveWord w s = exec i s)
    ∨ ∃ r, decode w = .illegal r ∧ serveWord w s = .next (s.answerIllegal r) := by
  unfold serveWord
  cases decode w with
  | instr i => exact .inl ⟨i, rfl, rfl⟩
  | illegal r => exact .inr ⟨r, rfl, rfl⟩

end Sys2Proof.Machine
end

