-- ==== Sys2Proof/Laws/PerInstr.lean ====
section
/-! SUPPORT. Families of statements about requests as syntax, one lemma per constructor. -/

/-- The encoded word is covered by the row of the opcode table its mnemonic names (30_encoding.md R32 to R34). -/
def Sys2Proof.Laws.EncodeFormat.Statement (i : Sys2Proof.Instr) : Prop :=
  ∃ r ∈ Sys2Proof.opTable, r.mnemonic = i.mnemonic ∧ r.covers (Sys2Proof.encode i) = true

namespace Sys2Proof.Laws.EncodeFormat

theorem bcdEnc (value : Value) : Statement (.bcdEnc value) := by
  refine ⟨⟨"BCD_ENC", 0x0000000000000000#64, 0x00000000FFFFFFFF#64⟩, by simp [opTable], rfl, ?_⟩
  simp only [OpRow.covers, encode, beq_iff_eq]
  apply BitVec.eq_of_getLsbD_eq; intro i hi
  have hm : (0x00000000FFFFFFFF#64).getLsbD i = true ↔ i < 32 := by revert i; decide
  simp only [BitVec.getLsbD_and, BitVec.getLsbD_shiftLeft, BitVec.getLsbD_setWidth]
  grind

theorem frameEnc (minute hour : BitVec 8) (doy year : BitVec 16) : Statement (.frameEnc minute hour doy year) := by
  refine ⟨⟨"FRAME_ENC", 0x0000000000000001#64, 0xFF000000000000FF#64⟩, by simp [opTable], rfl, ?_⟩
  simp only [OpRow.covers, encode, beq_iff_eq]
  apply BitVec.eq_of_getLsbD_eq; intro i hi
  have hm : (0xFF000000000000FF#64).getLsbD i = true ↔ i < 8 ∨ 56 ≤ i := by
    revert i; decide
  have h1 : (0x01#64).getLsbD i = decide (i = 0) := by revert i; decide
  simp only [BitVec.getLsbD_and, BitVec.getLsbD_or, BitVec.getLsbD_shiftLeft, BitVec.getLsbD_setWidth, h1]
  grind

theorem frameRead : Statement .frameRead :=
  ⟨⟨"FRAME_READ", 0x0000000000000002#64, 0xFFFFFFFFFFFFFFFF#64⟩, by simp [opTable], rfl, by decide⟩

end Sys2Proof.Laws.EncodeFormat
end

