-- ==== Sys2Proof/Tests/Slice0.lean ====
section
/-! SUPPORT. Tests whose expected results are the spec's (95_test_vectors.md, 30_encoding.md R32 to R44), and, for every
statement with hypotheses, a concrete state and operands that meet them. -/

namespace Sys2Proof.Tests

open Sys2Proof.Machine

/-! ## Small states -/

/-- The state after reset of an instance of the given width. -/
def ofWidth (n : BcdWidth) : State := { State.reset with config := ⟨n⟩ }

/-- The frame of F1, `FRAME_ENC 34, 12, 100, 2024` (95_test_vectors.md section 1). -/
def frameF1 : FrameVec := 0x804048400091000800408404081052#120

/-- A default instance that has produced F1. -/
def afterF1 : State := { State.reset with frameReg := frameF1, frameValid := true }

/-- The same after a failed minute. -/
def afterFailure : State := { afterF1 with frameStale := true }

/-- s with one request word to serve. -/
def fed (s : State) (w : ReqWord) : State := { s with inputs := [.request w] }

/-- What one step on one request word answers and leaves in the two flags. -/
def served (s : State) (w : ReqWord) : Option (List RespWord × Bool × Bool) :=
  match step (fed s w) with
  | .next t => some (t.responses, t.frameValid, t.frameStale)
  | .fault _ => none
  | .refused _ => none

/-! ## Well-formedness: each check refuses an ill-formed line (30_encoding.md R43) -/

theorem test_wf_value : (SourceLine.bcdEnc 0x100000000).wellFormed = false := by decide
theorem test_wf_minute : (SourceLine.frameEnc 256 0 1 2024).wellFormed = false := by decide
theorem test_wf_hour : (SourceLine.frameEnc 0 256 1 2024).wellFormed = false := by decide
theorem test_wf_doy : (SourceLine.frameEnc 0 0 65536 2024).wellFormed = false := by decide
theorem test_wf_year : (SourceLine.frameEnc 0 0 1 65536).wellFormed = false := by decide
theorem test_wf_req : (SourceLine.req 0x10000000000000000).wellFormed = false := by decide
theorem test_wf_out_of_range_fits : (SourceLine.frameEnc 60 24 0 65535).wellFormed = true := by decide

/-! ## Decoding words written out from the encodings (30_encoding.md R32 to R36; 95_test_vectors.md 2.4) -/

/-- VALUE 123 in [63:32]. -/
theorem test_decode_bcdEnc : decode 0x0000007B00000000#64 = .instr (.bcdEnc 123#32) := by decide

/-- YEAR 0x07E8, DOY 0x0064, HOUR 0x0C, MINUTE 0x22, OP 01. -/
theorem test_decode_frameEnc : decode 0x0007E800640C2201#64 = .instr (.frameEnc 34#8 12#8 100#16 2024#16) := by decide

theorem test_decode_frameRead : decode 0x0000000000000002#64 = .instr .frameRead := by decide

theorem test_decode_illegal :
    [0x3#64, 0xFFFFFFFFFFFFFFFF#64, 0x4#64, 0x0000007B80000000#64, 0x0007E800640C2205#64, 0x0107E800640C2201#64, 0x6#64,
      0x8000000000000002#64].map decode =
    [.illegal .reservedOp, .illegal .reservedOp, .illegal .bcdEncReserved, .illegal .bcdEncReserved,
      .illegal .frameEncReserved, .illegal .frameEncReserved, .illegal .frameReadReserved,
      .illegal .frameReadReserved] := by decide

theorem test_decodeTableWord :
    decodeTableWord 64 0x0007E800640C2201 = some (.frameEnc 34#8 12#8 100#16 2024#16) ∧ decodeTableWord 64 3 = none := by
  decide

theorem test_withFetchWord :
    step (State.reset.withFetchWord 64 0x0000007B00000000) = exec (.bcdEnc 123#32) State.reset := rfl

/-! ## Assembly text (30_encoding.md R43, R44; the blanks around operands are assumption log 11) -/

theorem test_assemble_frameEnc :
    assembleProgram ["FRAME_ENC  34, 12, 100, 2024  ; MINUTE, HOUR, DOY, YEAR"] = some [0x0007E800640C2201#64] := by decide

theorem test_assemble_program :
    assembleProgram ["BCD_ENC 0x7B", "; a comment", ".req 0x0000000000000003", "FRAME_READ"] =
      some [0x0000007B00000000#64, 0x3#64, 0x2#64] := by decide

theorem test_assemble_refused : assembleProgram ["FRAME_ENC 256, 12, 100, 2024"] = none := by decide

/-! ## The spec's vectors, one step each -/

/-- BCD table: `BCD_ENC 123` with N = 32. -/
theorem test_bcdEnc_123 :
    served State.reset 0x0000007B00000000#64 = some ([0x012300#192], false, false) := by decide

/-- P3 step 6: `BCD_ENC 10000` with N = 16. -/
theorem test_bcdEnc_overflow :
    served (ofWidth .n16) 0x0000271000000000#64 = some ([0x271001#192], false, false) := by decide

set_option maxRecDepth 4000 in
/-- F1 and its whole response word. -/
theorem test_frameEnc_f1 : served State.reset 0x0007E800640C2201#64 =
    some ([0x00804048400091000800408404081052_0000000000000000#192], true, false) := by decide

set_option maxRecDepth 4000 in
/-- F9: a day with hundreds, tens and units, a two-digit year 99, a year that is not leap. -/
theorem test_frameEnc_f9 : served State.reset 0x000833016D122D01#64 =
    some ([0x00800419040091044850508044091006_0000000000000000#192], true, false) := by decide

/-- E13: N = 4, the year's two digits 24 overflow. -/
theorem test_frameEnc_year_overflow :
    served (ofWidth .n4) 0x0007E80009090901#64 = some ([0x1841#192], false, true) := by decide

/-- E12: N = 4, the range error on HOUR wins. -/
theorem test_frameEnc_range_first :
    served (ofWidth .n4) 0x0007E800011E0901#64 = some ([0x1E22#192], false, true) := by decide

/-- X10: FRAME_READ after reset. -/
theorem test_frameRead_no_frame : served State.reset 0x2#64 = some ([0x4#192], false, false) := by decide

/-- P5 step 6: the frame F1 with STALE = 1. -/
theorem test_frameRead_stale : served afterFailure 0x2#64 =
    some ([0x00804048400091000800408404081052_0000000000000008#192], true, true) := by decide

/-- X6: a malformed FRAME_ENC sets FRAME_STALE. -/
theorem test_illegal_frameEnc : served State.reset 0x0007E800640C2205#64 = some ([0x3#192], false, true) := by decide

/-- X2: OP = 11 touches no state. -/
theorem test_illegal_op : served afterF1 0xFFFFFFFFFFFFFFFF#64 = some ([0x3#192], true, false) := by decide

/-! ## Witnesses: concrete states and operands that meet the hypotheses of the statements

Those about a request that is served share the cases `served_…`; each statement names the ones that meet its clauses. -/

/-- Serving w from s meets P. -/
abbrev ServedWith (s : State) (w : ReqWord) (P : State → RespWord → Prop) : Prop :=
  ∃ t r, Serves (fed s w) w t r ∧ P t r

theorem served_bcd_ok :
    ServedWith (ofWidth .n16) 0x0000270F00000000#64 fun _ r => respStatus r = 0#3 ∧ respValue r = 0x9999#32 :=
  ⟨_, _, ⟨rfl, rfl, rfl⟩, by decide⟩

theorem served_bcd_overflow :
    ServedWith (ofWidth .n16) 0x0000271000000000#64 fun _ r => respStatus r = 1#3 :=
  ⟨_, _, ⟨rfl, rfl, rfl⟩, by decide⟩

set_option maxRecDepth 4000 in
theorem served_frame_ok : ServedWith State.reset 0x0007E800640C2201#64 fun t r =>
    respStatus r = 0#3 ∧ t.frameValid = true ∧ t.frameStale = false ∧ t.frameReg = frameF1 :=
  ⟨_, _, ⟨rfl, rfl, rfl⟩, by decide⟩

/-- E1: MINUTE 60. -/
theorem served_frame_range : ServedWith afterF1 0x0007E80001003C01#64 fun t r =>
    respStatus r = 2#3 ∧ respErrField r = 1#3 ∧ t.frameStale = true :=
  ⟨_, _, ⟨rfl, rfl, rfl⟩, by decide⟩

/-- E9: day 100 with N = 8. -/
theorem served_frame_overflow : ServedWith (ofWidth .n8) 0x0007E800640C2201#64 fun t r =>
    respStatus r = 1#3 ∧ respErrField r = 3#3 ∧ t.frameStale = true :=
  ⟨_, _, ⟨rfl, rfl, rfl⟩, by decide⟩

/-- X7: bit 56 set. -/
theorem served_frame_malformed : ServedWith State.reset 0x0107E800640C2201#64 fun t r =>
    respStatus r = 3#3 ∧ t.frameStale = true :=
  ⟨_, _, ⟨rfl, rfl, rfl⟩, by decide⟩

/-- X4, X8, X1: the three malformed words that touch no state. -/
theorem served_malformed : ∀ w ∈ [0x0000007B80000000#64, 0x6#64, 0x3#64],
    ServedWith State.reset w fun t r => respStatus r = 3#3 ∧ t.frameStale = false := by
  simp only [List.forall_mem_cons]
  exact ⟨⟨_, _, ⟨rfl, rfl, rfl⟩, by decide⟩, ⟨_, _, ⟨rfl, rfl, rfl⟩, by decide⟩, ⟨_, _, ⟨rfl, rfl, rfl⟩, by decide⟩,
    by simp⟩

theorem served_read_ok : ServedWith afterFailure (encode .frameRead) fun _ r =>
    respStatus r = 0#3 ∧ respStale r = 1#1 ∧ respFrame r = frameF1 :=
  ⟨_, _, ⟨rfl, rfl, rfl⟩, by decide⟩

/-- P5 step 3: NO_FRAME while FRAME_STALE = 1. -/
theorem served_read_no_frame :
    ServedWith { State.reset with frameStale := true } (encode .frameRead) fun _ r => respStatus r = 4#3 :=
  ⟨_, _, ⟨rfl, rfl, rfl⟩, by decide⟩

/-! ### Encoding -/

theorem witness_EncodeOfDecodeIsTheWord : decode 0x0007E800640C2201#64 = .instr (.frameEnc 34#8 12#8 100#16 2024#16) :=
  test_decode_frameEnc

theorem witness_DecodeIsTheFourCases :
    (0x0000007B00000000#64).toNat % 4 = 0 ∧ (0x0007E800640C2205#64).toNat % 4 = 1 ∧ (0x2#64).toNat % 4 = 2
      ∧ (0xFFFFFFFFFFFFFFFF#64).toNat % 4 = 3 ∧ decode 0x0007E800640C2205#64 = .illegal .frameEncReserved := by decide

/-- Each row has its words, and the rows are apart. -/
theorem witness_OpcodeRowsCoverExactlyTheirRequests :
    [0x7B00000000#64, 0x0007E800640C2201#64, 0x2#64, 0x3#64].map (fun w => opTable.map fun r => r.covers w) =
      [[true, false, false], [false, true, false], [false, false, true], [false, false, false]] := by
  decide

theorem witness_ResponseWordsReadBack :
    Response.ofWord 0x1841#192 = some { status := .numberTooLarge, errField := .year, value := 24#32 }
      ∧ Response.ofWord 0x80#192 = none ∧ Response.ofWord 0x5#192 = none := by decide

/-- The largest timestamp in range, in the smallest instance that encodes every one (E14). -/
theorem frameEnc_succeeds : ∃ t, FrameEncSucceeds 59#8 23#8 366#16 2024#16 (ofWidth .n12) t := ⟨_, rfl, rfl⟩

theorem witness_FrameVectorHoldsSymbolsInPlace :
    (List.replicate 60 Symbol.mark).length = 60 ∧ ∃ t, FrameEncSucceeds 59#8 23#8 366#16 2024#16 (ofWidth .n12) t :=
  ⟨rfl, frameEnc_succeeds⟩

theorem witness_SymbolCodesNeverEleven : ∃ t, FrameEncSucceeds 59#8 23#8 366#16 2024#16 (ofWidth .n12) t :=
  frameEnc_succeeds

/-! ### The BCD Encoder -/

theorem witness_BcdOverflowsExactlyAtCapacity :
    10 ^ BcdWidth.n32.digits ≤ (100000000#32).toNat ∧ (99999999#32).toNat < 10 ^ BcdWidth.n32.digits
      ∧ 10 ^ BcdWidth.n4.digits ≤ (10#32).toNat ∧ (9#32).toNat < 10 ^ BcdWidth.n4.digits := by decide

theorem witness_BcdDecodesBack : (9999#32).toNat < 10 ^ BcdWidth.n16.digits := by decide

theorem witness_BcdLanesHoldDecimalDigits : bcd BcdWidth.n16.bits 9999#32 = .ok 0x9999#16 := by decide

/-- Weight 80 has the last lane of N = 8; weight 100 has none. -/
theorem witness_WeightedBitReadsOneBit :
    w80.lane < BcdWidth.n8.digits ∧ BcdWidth.n8.digits ≤ w100.lane
      ∧ weightedBit (0x80#8 : BitVec BcdWidth.n8.bits) w80 = true := by decide

theorem witness_BcdEncAnswersDigitsOrNumberTooLarge :
    (99#32).toNat < 10 ^ (ofWidth .n8).config.bcdWidth.digits
      ∧ 10 ^ (ofWidth .n8).config.bcdWidth.digits ≤ (100#32).toNat := by decide

theorem witness_BcdEncDependsOnValueAndWidthOnly : State.reset.config = afterFailure.config := rfl

/-! ### The Frame Encoder -/

theorem witness_FrameEncKeepsAndAnswersTheTableFrame :
    (InRange 59#8 23#8 366#16 ∧ FieldsFit (ofWidth .n12).config.bcdWidth 59#8 23#8 366#16 65535#16)
      ∧ InRange 0#8 0#8 1#16 ∧ FieldsFit (ofWidth .n4).config.bcdWidth 0#8 0#8 1#16 0#16 := by decide

theorem witness_FrameEncNeedsTwelveBits :
    (InRange 59#8 23#8 366#16 ∧ 12 ≤ (ofWidth .n12).config.bcdWidth.bits)
      ∧ (InRange 0#8 0#8 100#16 ∧ (ofWidth .n8).config.bcdWidth = .n8 ∧ 100 ≤ (100#16).toNat)
      ∧ (InRange 0#8 0#8 1#16 ∧ (ofWidth .n4).config.bcdWidth = .n4 ∧ 10 ≤ (2010#16).toNat % 100) := by decide

theorem witness_FrameEncChecksRangesInOrder :
    59 < (60#8).toNat ∧ ((59#8).toNat ≤ 59 ∧ 23 < (24#8).toNat)
      ∧ ((23#8).toNat ≤ 23 ∧ (0#16).toNat = 0 ∧ 366 < (367#16).toNat) ∧ InRange 59#8 23#8 366#16 := by decide

/-- With N = 4: 10 overflows in each place, 9 does not. -/
theorem witness_FrameEncReportsFirstOverflow :
    (InRange 10#8 0#8 1#16 ∧ ¬ Fits .n4 (10#8).toNat)
      ∧ (InRange 9#8 10#8 1#16 ∧ Fits .n4 (9#8).toNat ∧ ¬ Fits .n4 (10#8).toNat)
      ∧ (InRange 9#8 9#8 10#16 ∧ Fits .n4 (9#8).toNat ∧ ¬ Fits .n4 (10#16).toNat)
      ∧ (InRange 9#8 9#8 9#16 ∧ Fits .n4 (9#16).toNat ∧ ¬ Fits .n4 ((2010#16).toNat % 100))
      ∧ 12 ≤ BcdWidth.n12.bits := by decide

theorem witness_LeapYearIndicatorFollowsGregorianRule :
    (∃ t, FrameEncSucceeds 0#8 0#8 1#16 2000#16 State.reset t)
      ∧ ∃ t, FrameEncSucceeds 0#8 0#8 1#16 2100#16 State.reset t :=
  ⟨⟨_, rfl, rfl⟩, ⟨_, rfl, rfl⟩⟩

theorem witness_SuccessfulFramesHaveFixedPositions : ∃ t, FrameEncSucceeds 59#8 23#8 366#16 2024#16 (ofWidth .n12) t :=
  frameEnc_succeeds

theorem witness_SuccessfulFramesDecodeToTheirFields : ∃ t, FrameEncSucceeds 59#8 23#8 366#16 2024#16 (ofWidth .n12) t :=
  frameEnc_succeeds

theorem witness_YearsAlikeDifferOnlyInLeapIndicator :
    ((∃ t, FrameEncSucceeds 0#8 0#8 1#16 2000#16 State.reset t)
        ∧ ∃ t, FrameEncSucceeds 0#8 0#8 1#16 2100#16 State.reset t)
      ∧ (2000#16).toNat % 100 = (2100#16).toNat % 100 :=
  ⟨witness_LeapYearIndicatorFollowsGregorianRule, by decide⟩

theorem witness_FailedFrameEncOnlyMarksStale :
    afterF1.frameValid = true ∧ (0x0007E80001003C01#64).toNat % 4 = 1
      ∧ ServedWith afterF1 0x0007E80001003C01#64 fun _ r => respStatus r ≠ 0#3 :=
  ⟨rfl, by decide, _, _, ⟨rfl, rfl, rfl⟩, by decide⟩

/-! ### FRAME_READ -/

theorem witness_FrameReadAnswersFrameOrNoFrame : afterF1.frameValid = true ∧ State.reset.frameValid = false := by decide

theorem witness_NoFrameResponseIsOtherwiseZero :
    ServedWith { State.reset with frameStale := true } (encode .frameRead) fun _ r => respStatus r = 4#3 :=
  served_read_no_frame

/-- A state that is about to produce a frame, so both runs reach FRAME_VALID = 1. -/
theorem witness_InvalidFrameRegIsNeverObserved :
    (fed State.reset 0x0007E800640C2201#64).frameValid = false
      ∧ ∃ t, core.run 1 (fed State.reset 0x0007E800640C2201#64) = .next t ∧ t.frameValid = true :=
  ⟨rfl, _, rfl, rfl⟩

theorem witness_FailedMinuteIsReadBackAsStale :
    ∃ t u, FrameEncSucceeds 34#8 12#8 100#16 2024#16 State.reset t
      ∧ exec (.frameEnc 60#8 0#8 1#16 2024#16) t = .next u ∧ u.frameStale = true :=
  ⟨_, _, ⟨rfl, rfl⟩, rfl, rfl⟩

/-! ### Errors -/

theorem witness_NumberTooLargeExactlyOnOverflow :
    (ServedWith (ofWidth .n16) 0x0000271000000000#64 fun _ r => respStatus r = 1#3)
      ∧ (decode 0x0000271000000000#64 = .instr (.bcdEnc 10000#32))
      ∧ (ServedWith (ofWidth .n8) 0x0007E800640C2201#64 fun t r =>
          respStatus r = 1#3 ∧ respErrField r = 3#3 ∧ t.frameStale = true)
      ∧ decode 0x0007E800640C2201#64 = .instr (.frameEnc 34#8 12#8 100#16 2024#16) :=
  ⟨served_bcd_overflow, by decide, served_frame_overflow, test_decode_frameEnc⟩

theorem witness_FieldOutOfRangeExactlyOnBadField :
    (ServedWith afterF1 0x0007E80001003C01#64 fun t r =>
        respStatus r = 2#3 ∧ respErrField r = 1#3 ∧ t.frameStale = true)
      ∧ decode 0x0007E80001003C01#64 = .instr (.frameEnc 60#8 0#8 1#16 2024#16) :=
  ⟨served_frame_range, by decide⟩

theorem witness_IllegalRequestExactlyOnMalformedWords :
    (ServedWith State.reset 0x0107E800640C2201#64 fun t r => respStatus r = 3#3 ∧ t.frameStale = true)
      ∧ MalformedWord 0x0107E800640C2201#64 ∧ MalformedWord 0x0000007B80000000#64 ∧ MalformedWord 0x6#64
      ∧ MalformedWord 0x3#64 ∧ ¬ MalformedWord 0x2#64 :=
  ⟨served_frame_malformed, by decide, by decide, by decide, by decide, by decide⟩

theorem witness_NoFrameExactlyOnReadBeforeFrame :
    ServedWith { State.reset with frameStale := true } (encode .frameRead) fun _ r => respStatus r = 4#3 :=
  served_read_no_frame

theorem witness_FirstCauseInPriorityIsReported :
    (fed State.reset 0x0007E80000183C01#64).inputs.head? = some (.request 0x0007E80000183C01#64) := rfl

/-- The clauses of an OK response, one per request, and of the errors: `served_…` above. -/
theorem witness_UnnamedResponseFieldsAreZero :
    (ServedWith (ofWidth .n16) 0x0000270F00000000#64 fun _ r => respStatus r = 0#3 ∧ respValue r = 0x9999#32)
      ∧ (0x0000270F00000000#64).toNat % 4 = 0 ∧ (0x0007E800640C2201#64).toNat % 4 = 1
      ∧ (encode .frameRead).toNat % 4 = 2 :=
  ⟨served_bcd_ok, by decide, by decide, by decide⟩

/-! ### State and flags -/

theorem witness_StateWrittenByEachOutcome : ServedWith State.reset 0x0007E800640C2201#64 fun t r =>
    respStatus r = 0#3 ∧ t.frameValid = true ∧ t.frameStale = false ∧ t.frameReg = frameF1 :=
  served_frame_ok

/-- FRAME_VALID falls at a reset and rises at a FRAME_ENC. -/
theorem witness_FrameValidIsSetBySuccessAndClearedByReset :
    (∃ t, step { afterF1 with inputs := [.reset] } = .next t ∧ afterF1.frameValid = true ∧ t.frameValid = false)
      ∧ ∃ t, step (fed State.reset 0x0007E800640C2201#64) = .next t ∧ State.reset.frameValid = false
        ∧ t.frameValid = true :=
  ⟨⟨_, rfl, rfl, rfl⟩, ⟨_, rfl, rfl, rfl⟩⟩

theorem witness_FrameStaleTellsWhetherLastFrameEncFailed : ServedWith afterFailure (encode .frameRead) fun _ r =>
    respStatus r = 0#3 ∧ respStale r = 1#1 ∧ respFrame r = frameF1 :=
  served_read_ok

theorem witness_BcdWidthIsLegalAndFixed : ∃ t, step { ofWidth .n12 with inputs := [.reset] } = .next t := ⟨_, rfl⟩

theorem witness_InstructionsChangeNothingElse : ∃ t, exec (.bcdEnc 123#32) afterFailure = .next t := ⟨_, rfl⟩

/-! ### Stepping and the invariant -/

theorem witness_StepRunsTheDecodedInstruction :
    (fed afterF1 0x7B00000000#64).inputs = .request 0x7B00000000#64 :: []
      ∧ decode 0x7B00000000#64 = .instr (.bcdEnc 123#32) := by decide

theorem witness_StepWithoutInputHoldsState : afterFailure.inputs = [] := rfl

theorem witness_ResetBetweenRequestsClearsFlags :
    State.inputs { afterFailure with inputs := [.reset, .request 0x2#64] } = .reset :: [.request 0x2#64] := rfl

theorem witness_ResetDuringRequestCompletesOrDiscards :
    State.inputs { afterFailure with inputs := [.resetDuring 0x2#64] } = .resetDuring 0x2#64 :: [] := rfl

theorem witness_EveryRequestIsAnsweredOnce : (fed afterF1 0x3#64).inputs = .request 0x3#64 :: [] := rfl

theorem witness_AllWaitingInputsAreServed :
    ∀ a ∈ [Input.request 0x3#64, .request 0x2#64], ∃ w, a = .request w := by simp

/-- The second of two inputs, which are both requests: the boundary value of i, and k = 2. -/
theorem witness_InputsAreServedInOrder :
    (State.inputs { afterF1 with inputs := [.request 0x3#64, .request 0x2#64] })[1]? = some (.request 0x2#64)
      ∧ ∀ a ∈ [Input.request 0x3#64, .request 0x2#64].take 2, ∃ w, a = .request w := by simp

/-- Two states with different pasts that agree on the three elements. -/
theorem witness_RequestsDependOnThreeElementsOnly :
    ServedWith afterF1 0x2#64 (fun _ r => respStatus r = 0#3)
      ∧ ServedWith { afterF1 with freeCount := 5 } 0x2#64 (fun _ r => respStatus r = 0#3) :=
  ⟨⟨_, _, ⟨rfl, rfl, rfl⟩, by decide⟩, ⟨_, _, ⟨rfl, rfl, rfl⟩, by decide⟩⟩

theorem frameF1_encodes : EncodesTimestamp frameF1 := ⟨34#8, 12#8, 100#16, 2024#16, by decide, by decide⟩

theorem witness_StepsKeepStatesSafe : SafeState (fed afterF1 0x2#64) ∧ ∃ t, step (fed afterF1 0x2#64) = .next t :=
  ⟨⟨fun _ => frameF1_encodes, by simp [fed, afterF1, State.reset]⟩, _, rfl⟩

end Sys2Proof.Tests
end

section
/-! SUPPORT. What serving a request can do to the state, said once for every request word, and that nothing writes
the configuration (00_scope.md R4, 10_state.md R16). -/

namespace Sys2Proof.Machine

/-- The three effects a request can have: an answer alone, a new frame kept and answered, or a failed FRAME_ENC
(10_state.md R12 to R15, 60_exceptions.md R114). -/
inductive RequestEffect (s : State) : State → Prop where
  | answered (r : Response) : RequestEffect s (s.respond r)
  | kept (v : FrameVec) : RequestEffect s ((s.keepFrame v).respond { status := .ok, frame := v })
  | failed (e : RequestError) : RequestEffect s (s.failFrame e)

theorem RequestEffect.config_eq {s t : State} (h : RequestEffect s t) : t.config = s.config := by
  cases h <;> simp

theorem exec_effect (i : Instr) (s : State) : ∃ t, exec i s = .next t ∧ RequestEffect s t := by
  cases i with
  | bcdEnc v => exact ⟨_, execBcdEnc_eq v s, .answered _⟩
  | frameEnc m h d y =>
    obtain ⟨v, -, hv⟩ | ⟨e, -, he⟩ := execFrameEnc_cases m h d y s
    · exact ⟨_, hv, .kept v⟩
    · exact ⟨_, he, .failed e⟩
  | frameRead => exact ⟨_, execFrameRead_eq s, .answered _⟩

theorem answerIllegal_effect (r : Illegal) (s : State) : RequestEffect s (s.answerIllegal r) := by
  unfold State.answerIllegal
  split
  · exact .failed _
  · exact .answered _

theorem serveWord_effect (w : ReqWord) (s : State) : ∃ t, serveWord w s = .next t ∧ RequestEffect s t := by
  obtain ⟨i, -, hi⟩ | ⟨r, -, hr⟩ := serveWord_cases w s
  · rw [hi]; exact exec_effect i s
  · exact ⟨_, hr, answerIllegal_effect r s⟩

/-- A reset during a request follows the completed request or replaces it (70_reset_and_hazards.md R130). -/
theorem serveWordUnderReset_cases (w : ReqWord) (s : State) :
    (∃ u, serveWord w s.tick = .next u ∧ serveWordUnderReset w s = .next u.takeReset)
    ∨ serveWordUnderReset w s = .next s.tick.takeReset := by
  obtain ⟨u, hu, -⟩ := serveWord_effect w s.tick
  unfold serveWordUnderReset
  split
  · exact .inl ⟨u, hu, by rw [hu]⟩
  · exact .inr rfl

theorem serveWord_config {w : ReqWord} {s t : State} (h : serveWord w s = .next t) : t.config = s.config := by
  obtain ⟨u, hu, effect⟩ := serveWord_effect w s
  cases hu.symm.trans h
  exact effect.config_eq

theorem serveWordUnderReset_config {w : ReqWord} {s t : State} (h : serveWordUnderReset w s = .next t) :
    t.config = s.config := by
  obtain ⟨u, hu, hr⟩ | hr := serveWordUnderReset_cases w s
  · cases hr.symm.trans h
    simpa using serveWord_config hu
  · cases hr.symm.trans h
    simp

theorem step_config {s t : State} (h : step s = .next t) : t.config = s.config := by
  obtain ⟨-, rfl⟩ | ⟨w, rest, -, hw⟩ | ⟨rest, -, rfl⟩ | ⟨w, rest, -, hw⟩ := step_cases h
  · rfl
  · simpa using serveWord_config hw
  · simp
  · simpa using serveWordUnderReset_config hw

theorem exists_bits_eq_iff (N : Nat) : (∃ n : BcdWidth, n.bits = N) ↔ N ∈ [4, 8, 12, 16, 20, 24, 28, 32] := by
  constructor
  · rintro ⟨n, rfl⟩
    cases n <;> decide
  · intro h
    simp only [List.mem_cons, List.not_mem_nil, or_false] at h
    obtain rfl | rfl | rfl | rfl | rfl | rfl | rfl | rfl := h
    exacts [⟨.n4, rfl⟩, ⟨.n8, rfl⟩, ⟨.n12, rfl⟩, ⟨.n16, rfl⟩, ⟨.n20, rfl⟩, ⟨.n24, rfl⟩, ⟨.n28, rfl⟩, ⟨.n32, rfl⟩]

end Sys2Proof.Machine
end

section
/-! SUPPORT. FRAME_ENC on a timestamp in range: it fails exactly where a conversion overflows, and from N = 12 on none
does (00_scope.md R6, 41_frame_encoder.md R85). -/

namespace Sys2Proof.Machine

theorem convertFields_of_not_fieldsFit {n : BcdWidth} {minute hour : BitVec 8} {doy year : BitVec 16}
    (hf : ¬ FieldsFit n minute hour doy year) :
    ∃ f v, convertFields n.bits minute hour doy year = .error (.numberTooLarge f v) := by
  rw [convertFields_eq]
  split_ifs with hm hh hd hy
  · exact absurd ⟨hm, hh, hd, hy⟩ hf
  all_goals exact ⟨_, _, rfl⟩

theorem exec_frameEnc_of_fieldsFit {minute hour : BitVec 8} {doy year : BitVec 16} {s : State}
    (hr : InRange minute hour doy) (hf : FieldsFit s.config.bcdWidth minute hour doy year) :
    ∃ V, exec (.frameEnc minute hour doy year) s = .next { s with
      frameReg := V, frameValid := true, frameStale := false,
      responses := s.responses ++ [Response.toWord { status := .ok, frame := V }] } := by
  have hok := (encodeFrame_ok_iff s.config.bcdWidth minute hour doy year _).2 ⟨hr, hf, rfl⟩
  exact ⟨_, by simp only [exec, execFrameEnc, hok]; rfl⟩

/-- In range, the first overflow is what FRAME_ENC reports (41_frame_encoder.md R85, R87). -/
theorem exec_frameEnc_of_overflow {minute hour : BitVec 8} {doy year : BitVec 16} {s : State} {f : ErrField}
    {v : Value} (hr : InRange minute hour doy)
    (he : convertFields s.config.bcdWidth.bits minute hour doy year = .error (.numberTooLarge f v)) :
    exec (.frameEnc minute hour doy year) s = .next { s with
      frameStale := true,
      responses := s.responses ++ [Response.toWord { status := .numberTooLarge, errField := f, value := v }] } := by
  have hrange := (rangeError_eq_none_iff minute hour doy).2 hr
  simp only [exec, execFrameEnc, encodeFrame, hrange, he]
  rfl

/-- Three digits fit from N = 12 on. -/
theorem fits_of_lt_thousand {n : BcdWidth} {v : Nat} (hn : 12 ≤ n.bits) (hv : v < 1000) : Fits n v := by
  have h3 : 3 ≤ n.digits := by have := four_mul_digits n; omega
  calc v < 10 ^ 3 := hv
    _ ≤ 10 ^ n.digits := Nat.pow_le_pow_right (by decide) h3

theorem fieldsFit_of_twelve_le {n : BcdWidth} {minute hour : BitVec 8} {doy : BitVec 16} (year : BitVec 16)
    (hn : 12 ≤ n.bits) (hr : InRange minute hour doy) : FieldsFit n minute hour doy year := by
  obtain ⟨hm, hh, -, hd⟩ := hr
  refine ⟨?_, ?_, ?_, ?_⟩ <;> exact fits_of_lt_thousand hn (by omega)

theorem fits_n8_iff (v : Nat) : Fits .n8 v ↔ v < 100 := Iff.rfl

theorem fits_n4_iff (v : Nat) : Fits .n4 v ↔ v < 10 := Iff.rfl

/-- With N = 8 minutes and hours convert, and a day of 100 or more is the first overflow. -/
theorem convertFields_n8_of_hundred_le_doy {minute hour : BitVec 8} {doy : BitVec 16} (year : BitVec 16)
    (hr : InRange minute hour doy) (hd : 100 ≤ doy.toNat) :
    convertFields BcdWidth.n8.bits minute hour doy year = .error (.numberTooLarge .doy (doy.setWidth 32)) := by
  obtain ⟨hm, hh, -, -⟩ := hr
  have fm : Fits .n8 minute.toNat := by rw [fits_n8_iff]; omega
  have fh : Fits .n8 hour.toNat := by rw [fits_n8_iff]; omega
  have fd : ¬ Fits .n8 doy.toNat := by rw [fits_n8_iff]; omega
  simp only [convertFields_eq, fm, fh, fd, not_true, not_false_eq_true, if_true, if_false]

end Sys2Proof.Machine
end

section
/-! The statements of 00_scope.md R4 and R6 and of the state after reset. -/

namespace Sys2Proof

open Sys2Proof.Machine

/-- Settles O20: the conversions decide in range, and the digit capacity decides the conversions. -/
theorem frameEncNeedsTwelveBits : Obligations.FrameEncNeedsTwelveBits := by
  unfold Obligations.FrameEncNeedsTwelveBits
  intro minute hour doy year s hr
  refine ⟨fun hn => ?_, fun hn hd => ?_, fun hn hbig => ?_⟩
  · exact exec_frameEnc_of_fieldsFit hr (fieldsFit_of_twelve_le year hn hr)
  · have he := convertFields_n8_of_hundred_le_doy year hr hd
    rw [← hn] at he
    exact exec_frameEnc_of_overflow hr he
  · have hf : ¬ FieldsFit s.config.bcdWidth minute hour doy year := by
      simp only [hn, FieldsFit, fits_n4_iff]; omega
    obtain ⟨f, v, he⟩ := convertFields_of_not_fieldsFit hf
    exact ⟨f, v, exec_frameEnc_of_overflow hr he⟩

/-- Settles O42: every request and every reset keeps the configuration; the widths are enumerated. -/
theorem bcdWidthIsLegalAndFixed : Obligations.BcdWidthIsLegalAndFixed :=
  ⟨fun _ _ => step_config, exists_bits_eq_iff, four_mul_digits, rfl⟩

/-- Settles O48: the fields of `State.reset` as defined. -/
theorem resetLeavesFlagsClear : Obligations.ResetLeavesFlagsClear :=
  ⟨rfl, rfl, rfl, rfl, rfl⟩

end Sys2Proof
end

section
/-! SUPPORT. What serving a word does by its OP field, what a reset during a request leaves, and what two states that
agree on the three elements and on N answer (10_state.md R12 to R17, 60_exceptions.md R114). -/

namespace Sys2Proof.Machine

theorem reqOp_eq_one_iff (w : ReqWord) : reqOp w = 0b01#2 ↔ w.toNat % 4 = 1 := by
  rw [← BitVec.toNat_inj, reqOp_toNat]; rfl

/-- An error is never reported as OK (30_encoding.md R39). -/
@[simp] theorem RequestError.status_code_ne_ok (e : RequestError) : e.response.status.code ≠ 0#3 := by
  cases e <;> simp [RequestError.response, Status.code]

/-- Whatever a request does, it adds one response and writes nothing outside the three elements. -/
theorem RequestEffect.frame {s t : State} (h : RequestEffect s t) :
    ∃ r, t = { s with frameReg := t.frameReg, frameValid := t.frameValid, frameStale := t.frameStale,
                      responses := s.responses ++ [r] } := by
  cases h with
  | answered r => exact ⟨r.toWord, rfl⟩
  | kept v => exact ⟨_, rfl⟩
  | failed e => exact ⟨e.response.toWord, rfl⟩

theorem RequestEffect.keeps_frameValid {s t : State} (h : RequestEffect s t) (hv : s.frameValid = true) :
    t.frameValid = true := by
  cases h <;> simp [hv]

/-- Only FRAME_ENC does more than answer. -/
theorem exec_eq_respond_of_ne_frameEnc {i : Instr} (hi : ∀ m h d y, i ≠ .frameEnc m h d y) (s : State) :
    ∃ r, exec i s = .next (s.respond r) := by
  cases i with
  | bcdEnc v => exact ⟨_, execBcdEnc_eq v s⟩
  | frameEnc m h d y => exact absurd rfl (hi m h d y)
  | frameRead => exact ⟨_, execFrameRead_eq s⟩

/-- The three effects of a request by its OP field: a word with OP = 01 keeps a frame or fails, malformed ones included,
and any other word is only answered (60_exceptions.md R113, R114). -/
theorem serveWord_op_cases (w : ReqWord) (s : State) :
    (w.toNat % 4 ≠ 1 ∧ ∃ q, serveWord w s = .next (s.respond q))
    ∨ (w.toNat % 4 = 1 ∧ ∃ v, serveWord w s = .next ((s.keepFrame v).respond { status := .ok, frame := v }))
    ∨ (w.toNat % 4 = 1 ∧ ∃ e, serveWord w s = .next (s.failFrame e)) := by
  simp only [Ne, ← reqOp_eq_one_iff]
  obtain ⟨i, hd, hw⟩ | ⟨c, hd, hw⟩ := serveWord_cases w s
  · rw [hw]
    obtain ⟨op, -, rfl⟩ | ⟨op, -, -, rfl⟩ | ⟨op, -, rfl⟩ := decode_instr_cases hd
    · exact .inl ⟨by simp [op], _, execBcdEnc_eq _ s⟩
    · obtain ⟨v, -, hv⟩ | ⟨e, -, he⟩ := execFrameEnc_cases (reqMinute w) (reqHour w) (reqDoy w) (reqYear w) s
      · exact .inr (.inl ⟨op, v, hv⟩)
      · exact .inr (.inr ⟨op, e, he⟩)
    · exact .inl ⟨by simp [op], _, execFrameRead_eq s⟩
  · rw [hw, decode_illegal_op hd, State.answerIllegal]
    by_cases op : c.op = 0b01#2
    · exact .inr (.inr ⟨op, _, by rw [if_pos op]⟩)
    · exact .inl ⟨op, _, by rw [if_neg op]; rfl⟩

/-- The step that serves a word is `serveWord` on the state with the word taken. -/
theorem Serves.exists_serveWord {s t : State} {w : ReqWord} {r : RespWord} (h : Serves s w t r) :
    ∃ rest, s.inputs = .request w :: rest ∧ serveWord w (s.withInputs rest) = .next t := by
  obtain ⟨hhead, hstep, -⟩ := h
  obtain ⟨rest, hi⟩ := List.head?_eq_some_iff.1 hhead
  refine ⟨rest, hi, ?_⟩
  rw [step, hi] at hstep
  exact hstep

/-- The effects of a served word by its OP field, with the response word each answers. -/
theorem Serves.op_cases {s t : State} {w : ReqWord} {r : RespWord} (h : Serves s w t r) :
    ∃ rest, s.inputs = .request w :: rest
      ∧ ((w.toNat % 4 ≠ 1 ∧ ∃ q : Response, r = q.toWord ∧ t = (s.withInputs rest).respond q)
        ∨ (w.toNat % 4 = 1 ∧ ∃ v, r = Response.toWord { status := .ok, frame := v }
          ∧ t = ((s.withInputs rest).keepFrame v).respond { status := .ok, frame := v })
        ∨ (w.toNat % 4 = 1 ∧ ∃ e : RequestError, r = e.response.toWord ∧ t = (s.withInputs rest).failFrame e)) := by
  obtain ⟨rest, hi, hw⟩ := h.exists_serveWord
  obtain ⟨-, -, hr⟩ := h
  refine ⟨rest, hi, ?_⟩
  obtain ⟨op, q, hq⟩ | ⟨op, v, hv⟩ | ⟨op, e, he⟩ := serveWord_op_cases w (s.withInputs rest)
  · cases hq.symm.trans hw
    exact .inl ⟨op, q, by simpa using hr.symm, rfl⟩
  · cases hv.symm.trans hw
    exact .inr (.inl ⟨op, v, by simpa using hr.symm, rfl⟩)
  · cases he.symm.trans hw
    exact .inr (.inr ⟨op, e, by simpa using hr.symm, rfl⟩)

theorem decode_encode_frameRead : decode (encode .frameRead) = .instr .frameRead := by decide

@[simp] theorem frameReadResponse_withInputs (l : List Input) (s : State) :
    frameReadResponse (s.withInputs l) = frameReadResponse s := rfl

/-- FRAME_READ served as a word answers what it answers as a request (42_frame_read.md R100). -/
theorem Serves.frameRead_response {s t : State} {r : RespWord} (h : Serves s (encode .frameRead) t r) :
    r = (frameReadResponse s).toWord := by
  obtain ⟨rest, -, hw⟩ := h.exists_serveWord
  obtain ⟨-, -, hr⟩ := h
  rw [serveWord, decode_encode_frameRead] at hw
  cases (execFrameRead_eq _).symm.trans hw
  simpa using hr.symm

/-- Completed or discarded, a request during which a reset arrives leaves FRAME_VALID = 0 (70_reset_and_hazards.md R130,
R131). -/
theorem serveWordUnderReset_frameValid {w : ReqWord} {s t : State} (h : serveWordUnderReset w s = .next t) :
    t.frameValid = false := by
  obtain ⟨u, -, hr⟩ | hr := serveWordUnderReset_cases w s <;> cases hr.symm.trans h <;> rfl

/-- A step from FRAME_VALID = 1 to FRAME_VALID = 0 takes a reset input (10_state.md R13). -/
theorem step_clears_frameValid {s t : State} (h : step s = .next t) (hs : s.frameValid = true)
    (ht : t.frameValid = false) :
    s.inputs.head? = some .reset ∨ ∃ w, s.inputs.head? = some (.resetDuring w) := by
  obtain ⟨-, rfl⟩ | ⟨w, rest, -, hw⟩ | ⟨rest, hi, -⟩ | ⟨w, rest, hi, -⟩ := step_cases h
  · simp [hs] at ht
  · obtain ⟨u, hu, effect⟩ := serveWord_effect w (s.withInputs rest)
    cases hu.symm.trans hw
    simp [effect.keeps_frameValid hs] at ht
  · exact .inl (by simp [hi])
  · exact .inr ⟨w, by simp [hi]⟩

/-- Only a served request takes FRAME_VALID from 0 to 1. -/
theorem step_sets_frameValid {s t : State} (h : step s = .next t) (hs : s.frameValid = false)
    (ht : t.frameValid = true) : ∃ w r, Serves s w t r := by
  obtain ⟨-, rfl⟩ | ⟨w, rest, hi, hw⟩ | ⟨rest, -, rfl⟩ | ⟨w, rest, -, hw⟩ := step_cases h
  · simp [hs] at ht
  · obtain ⟨u, hu, effect⟩ := serveWord_effect w (s.withInputs rest)
    cases hu.symm.trans hw
    obtain ⟨r, hr⟩ := effect.frame
    exact ⟨w, r, by simp [hi], h, by rw [hr]; rfl⟩
  · simp at ht
  · simp [serveWordUnderReset_frameValid hw] at ht

/-- A served word that takes FRAME_VALID from 0 to 1 is a successful FRAME_ENC, and FRAME_REG holds the frame it
answered. -/
theorem Serves.frameValid_rises {s t : State} {w : ReqWord} {r : RespWord} (h : Serves s w t r)
    (hs : s.frameValid = false) (ht : t.frameValid = true) :
    w.toNat % 4 = 1 ∧ respStatus r = 0#3 ∧ t.frameReg = respFrame r := by
  obtain ⟨rest, -, ⟨-, q, -, rfl⟩ | ⟨op, v, rfl, rfl⟩ | ⟨-, e, -, rfl⟩⟩ := h.op_cases
  · simp [hs] at ht
  · exact ⟨op, by simp [Status.code], by simp⟩
  · simp [hs] at ht

theorem Serves.frameValid_of_ok {s t : State} {w : ReqWord} {r : RespWord} (h : Serves s w t r)
    (op : w.toNat % 4 = 1) (hok : respStatus r = 0#3) : t.frameValid = true := by
  obtain ⟨rest, -, ⟨hop, -⟩ | ⟨-, v, -, rfl⟩ | ⟨-, e, rfl, -⟩⟩ := h.op_cases
  · exact absurd op hop
  · rfl
  · simp at hok

/-- FRAME_STALE after a served word (10_state.md R14). -/
theorem Serves.frameStale_eq {s t : State} {w : ReqWord} {r : RespWord} (h : Serves s w t r) :
    t.frameStale = if w.toNat % 4 = 1 then decide (respStatus r ≠ 0#3) else s.frameStale := by
  obtain ⟨rest, -, ⟨op, q, -, rfl⟩ | ⟨op, v, rfl, rfl⟩ | ⟨op, e, rfl, rfl⟩⟩ := h.op_cases
  · simp [op]
  · simp [op, Status.code]
  · simp [op]

/-- The two states agree on N and on the whole architectural state (10_state.md R15, R16); their ports may differ. -/
structure State.Agree (s s' : State) : Prop where
  config : s.config = s'.config
  frameReg : s.frameReg = s'.frameReg
  frameValid : s.frameValid = s'.frameValid
  frameStale : s.frameStale = s'.frameStale

/-- From two states, the same response is added and the states reached agree. -/
def AnswerAlike (s s' t t' : State) : Prop :=
  (∃ q, t.responses = s.responses ++ [q] ∧ t'.responses = s'.responses ++ [q]) ∧ t.Agree t'

section Agreeing

variable {s s' : State}

theorem State.Agree.respond (h : s.Agree s') (q : Response) : AnswerAlike s s' (s.respond q) (s'.respond q) :=
  ⟨⟨q.toWord, rfl, rfl⟩, h.config, h.frameReg, h.frameValid, h.frameStale⟩

theorem State.Agree.keepFrame (h : s.Agree s') (v : FrameVec) (q : Response) :
    AnswerAlike s s' ((s.keepFrame v).respond q) ((s'.keepFrame v).respond q) :=
  ⟨⟨q.toWord, rfl, rfl⟩, h.config, rfl, rfl, rfl⟩

theorem State.Agree.failFrame (h : s.Agree s') (e : RequestError) :
    AnswerAlike s s' (s.failFrame e) (s'.failFrame e) :=
  ⟨⟨e.response.toWord, rfl, rfl⟩, h.config, h.frameReg, h.frameValid, rfl⟩

theorem State.Agree.answerIllegal (h : s.Agree s') (c : Illegal) :
    AnswerAlike s s' (s.answerIllegal c) (s'.answerIllegal c) := by
  unfold State.answerIllegal
  split
  · exact h.failFrame _
  · exact h.respond _

theorem State.Agree.frameReadResponse_eq (h : s.Agree s') : frameReadResponse s = frameReadResponse s' := by
  simp only [frameReadResponse, h.frameReg, h.frameValid, h.frameStale]

theorem State.Agree.exec (h : s.Agree s') (i : Instr) :
    ∃ t t', Machine.exec i s = .next t ∧ Machine.exec i s' = .next t' ∧ AnswerAlike s s' t t' := by
  cases i with
  | bcdEnc v =>
    refine ⟨_, _, execBcdEnc_eq v s, execBcdEnc_eq v s', ?_⟩
    rw [← h.config]
    exact h.respond _
  | frameEnc mi ho d y =>
    simp only [Machine.exec, execFrameEnc, ← h.config]
    cases encodeFrame s.config.bcdWidth.bits mi ho d y with
    | ok v => exact ⟨_, _, rfl, rfl, h.keepFrame v _⟩
    | error e => exact ⟨_, _, rfl, rfl, h.failFrame e⟩
  | frameRead =>
    refine ⟨_, _, execFrameRead_eq s, execFrameRead_eq s', ?_⟩
    rw [← h.frameReadResponse_eq]
    exact h.respond _

theorem State.Agree.serveWord (h : s.Agree s') (w : ReqWord) :
    ∃ t t', Machine.serveWord w s = .next t ∧ Machine.serveWord w s' = .next t' ∧ AnswerAlike s s' t t' := by
  unfold Machine.serveWord
  cases decode w with
  | instr i => exact h.exec i
  | illegal c => exact ⟨_, _, rfl, rfl, h.answerIllegal c⟩

theorem State.Agree.withInputs (h : s.Agree s') (l l' : List Input) : (s.withInputs l).Agree (s'.withInputs l') :=
  ⟨h.config, h.frameReg, h.frameValid, h.frameStale⟩

/-- Agreeing states serve a word alike (10_state.md R17). -/
theorem State.Agree.serves (h : s.Agree s') {t t' : State} {w : ReqWord} {r r' : RespWord} (hs : Serves s w t r)
    (hs' : Serves s' w t' r') : r = r' ∧ t.Agree t' := by
  obtain ⟨rest, -, hw⟩ := hs.exists_serveWord
  obtain ⟨rest', -, hw'⟩ := hs'.exists_serveWord
  obtain ⟨-, -, hr⟩ := hs
  obtain ⟨-, -, hr'⟩ := hs'
  obtain ⟨u, u', hu, hu', ⟨q, hq, hq'⟩, agree⟩ := (h.withInputs rest rest').serveWord w
  cases hu.symm.trans hw
  cases hu'.symm.trans hw'
  simp_all

end Agreeing

end Sys2Proof.Machine
end

section
/-! The statements of 10_state.md R12 to R17 about the state elements and what a request depends on. -/

namespace Sys2Proof

open Sys2Proof.Machine

/-- Settles O18: the response is `bcdEncResponse` of N and VALUE in both states. -/
theorem bcdEncDependsOnValueAndWidthOnly : Obligations.BcdEncDependsOnValueAndWidthOnly := by
  unfold Obligations.BcdEncDependsOnValueAndWidthOnly
  intro v s t hconfig
  refine ⟨(bcdEncResponse s.config.bcdWidth v).toWord, execBcdEnc_eq v s, ?_⟩
  rw [hconfig]
  exact execBcdEnc_eq v t

/-- Settles O40: a served word sets FRAME_VALID or leaves it, and every reset clears it. -/
theorem frameValidIsSetBySuccessAndClearedByReset : Obligations.FrameValidIsSetBySuccessAndClearedByReset := by
  unfold Obligations.FrameValidIsSetBySuccessAndClearedByReset
  refine ⟨rfl, fun _ _ => step_clears_frameValid, ?rises, fun _ _ _ _ h => h.frameValid_of_ok, ?read⟩
  case rises =>
    intro s t h hs ht
    obtain ⟨w, r, served⟩ := step_sets_frameValid h hs ht
    exact ⟨w, r, served, served.frameValid_rises hs ht⟩
  case read =>
    intro s t r h
    rw [h.frameRead_response, respStatus_toWord, frameReadResponse]
    cases s.frameValid <;> rfl

/-- Settles O41: FRAME_STALE follows the three effects of a served word, and FRAME_READ copies it. -/
theorem frameStaleTellsWhetherLastFrameEncFailed : Obligations.FrameStaleTellsWhetherLastFrameEncFailed := by
  unfold Obligations.FrameStaleTellsWhetherLastFrameEncFailed
  refine ⟨rfl, fun _ _ _ _ h => h.frameStale_eq, ?_⟩
  intro s t r h hok
  rw [h.frameRead_response, respStatus_toWord] at hok
  rw [h.frameRead_response, respStale_toWord]
  cases hv : s.frameValid
  · simp [frameReadResponse, hv, Status.code] at hok
  · simp [frameReadResponse, hv]

/-- Settles O43: each instruction has one of the three effects, and BCD_ENC and FRAME_READ only answer. -/
theorem instructionsChangeNothingElse : Obligations.InstructionsChangeNothingElse := by
  unfold Obligations.InstructionsChangeNothingElse
  intro i s t h
  constructor
  · obtain ⟨u, hu, effect⟩ := exec_effect i s
    cases hu.symm.trans h
    exact effect.frame
  · intro hi
    obtain ⟨r, hr⟩ := exec_eq_respond_of_ne_frameEnc hi s
    cases hr.symm.trans h
    exact ⟨rfl, rfl, rfl⟩

/-- Settles O49: a request word has one of the three effects, each with one response. -/
theorem everyRequestIsAnsweredOnce : Obligations.EveryRequestIsAnsweredOnce := by
  unfold Obligations.EveryRequestIsAnsweredOnce
  intro s w rest hi
  obtain ⟨t, ht, effect⟩ := serveWord_effect w (s.withInputs rest)
  obtain ⟨r, hr⟩ := effect.frame
  refine ⟨t, r, ?_, by rw [hr]; rfl, by rw [hr]; rfl⟩
  rw [step, hi]
  exact ht

/-- Settles O51: agreeing states serve the word alike. -/
theorem requestsDependOnThreeElementsOnly : Obligations.RequestsDependOnThreeElementsOnly := by
  unfold Obligations.RequestsDependOnThreeElementsOnly
  intro s s' t t' w r r' hs hs' hconfig hreg hvalid hstale
  have agree : s.Agree s' := ⟨hconfig, hreg, hvalid, hstale⟩
  obtain ⟨hr, after⟩ := agree.serves hs hs'
  exact ⟨hr, after.frameReg, after.frameValid, after.frameStale⟩

end Sys2Proof
end

section
/-! SUPPORT. What one step, and a run of k steps, do to the two ports (20_memory.md R23, R24; 60_exceptions.md R110). -/

namespace Sys2Proof.Machine

theorem step_of_request {s : State} {w : ReqWord} {rest : List Input} (h : s.inputs = .request w :: rest) :
    step s = serveWord w (s.withInputs rest) := by
  rw [step, h]; rfl

theorem serveWord_of_instr {w : ReqWord} {i : Instr} (h : decode w = .instr i) (s : State) :
    serveWord w s = exec i s := by
  rw [serveWord, h]

/-- From s to t the k oldest inputs are taken and the responses `added` are returned: one for each input taken, where
those are all requests. -/
structure Advances (k : Nat) (s t : State) (added : List RespWord) : Prop where
  inputs : t.inputs = s.inputs.drop k
  responses : t.responses = s.responses ++ added
  count : (∀ a ∈ s.inputs.take k, ∃ w, a = .request w) → added.length = min k s.inputs.length

theorem Advances.refl (s : State) : Advances 0 s s [] :=
  ⟨rfl, (List.append_nil _).symm, fun _ => (Nat.zero_min _).symm⟩

theorem Advances.trans {j k : Nat} {s t u : State} {added later : List RespWord} (h : Advances j s t added)
    (h' : Advances k t u later) : Advances (j + k) s u (added ++ later) where
  inputs := by rw [h'.inputs, h.inputs, List.drop_drop]
  responses := by rw [h'.responses, h.responses, List.append_assoc]
  count := by
    intro requests
    rw [List.take_add, ← h.inputs] at requests
    have first := h.count fun a ha => requests a (List.mem_append_left _ ha)
    have second := h'.count fun a ha => requests a (List.mem_append_right _ ha)
    rw [h.inputs, List.length_drop] at second
    rw [List.length_append, first, second]
    omega

/-- Every input is taken, keeps the inputs behind it and the responses before it, and is answered once if it is a
request. -/
theorem takeInput_ports (a : Input) (s : State) : ∃ t added, takeInput a s = .next t ∧ t.inputs = s.inputs
    ∧ t.responses = s.responses ++ added ∧ ((∃ w, a = .request w) → added.length = 1) := by
  cases a with
  | request w =>
    obtain ⟨t, ht, effect⟩ := serveWord_effect w s
    obtain ⟨r, hr⟩ := effect.frame
    exact ⟨t, [r], ht, by rw [hr], by rw [hr], fun _ => rfl⟩
  | reset => exact ⟨s.takeReset, [], rfl, rfl, by simp, by simp⟩
  | resetDuring w =>
    obtain ⟨u, hu, completed⟩ | discarded := serveWordUnderReset_cases w s
    · obtain ⟨v, hv, effect⟩ := serveWord_effect w s.tick
      cases hv.symm.trans hu
      obtain ⟨r, hr⟩ := effect.frame
      exact ⟨u.takeReset, [r], completed, by rw [hr]; rfl, by rw [hr]; rfl, by simp⟩
    · exact ⟨s.tick.takeReset, [], discarded, rfl, by simp, by simp⟩

theorem step_advances (s : State) : ∃ t added, step s = .next t ∧ Advances 1 s t added := by
  cases hi : s.inputs with
  | nil => exact ⟨s, [], by rw [step, hi], by simp [hi], by simp, by simp [hi]⟩
  | cons a rest =>
    obtain ⟨t, added, ht, inputs, responses, once⟩ := takeInput_ports a (s.withInputs rest)
    refine ⟨t, added, by rw [step, hi]; exact ht, by simp [hi, inputs], responses, ?_⟩
    intro requests
    rw [once (requests a (by simp [hi])), hi, List.length_cons]
    omega

theorem run_succ_of_step {M : Host.Core} {s t : M.State} (h : M.step s = .next t) (k : Nat) :
    M.run (k + 1) s = M.run k t := by
  rw [Host.Core.run, h]

/-- A run of k + 1 steps ends with the step from the state that k steps reach. -/
theorem run_succ_of_run {k : Nat} {s t : State} (h : core.run k s = .next t) : core.run (k + 1) s = step t := by
  induction k generalizing s with
  | zero =>
    cases h
    obtain ⟨u, -, hu, -⟩ := step_advances t
    exact (run_succ_of_step (M := core) hu 0).trans hu.symm
  | succ k ih =>
    obtain ⟨u, -, hu, -⟩ := step_advances s
    rw [run_succ_of_step (M := core) hu] at h ⊢
    exact ih h

theorem run_advances (k : Nat) (s : State) : ∃ (t : State) (added : List RespWord),
    core.run k s = .next t ∧ Advances k s t added := by
  induction k with
  | zero => exact ⟨s, [], rfl, .refl s⟩
  | succ k ih =>
    obtain ⟨t, added, ht, first⟩ := ih
    obtain ⟨u, last, hu, next⟩ := step_advances t
    exact ⟨u, added ++ last, (run_succ_of_run ht).trans hu, first.trans next⟩

/-- A request word that is the oldest input is served by the next step. -/
theorem exists_serves {s : State} {w : ReqWord} (h : s.inputs.head? = some (.request w)) : ∃ u r, Serves s w u r := by
  obtain ⟨rest, hi⟩ := List.head?_eq_some_iff.1 h
  obtain ⟨u, r, hu, hr, -⟩ := everyRequestIsAnsweredOnce s w rest hi
  exact ⟨u, r, h, hu, hr⟩

end Sys2Proof.Machine
end

section
/-! The statements of 20_memory.md R23 and R24 about steps and the order of requests. -/

namespace Sys2Proof

open Sys2Proof.Machine

/-- Settles O50: every step takes the oldest input, if there is one, and as many steps as there are inputs take all. -/
theorem allWaitingInputsAreServed : Obligations.AllWaitingInputsAreServed := by
  unfold Obligations.AllWaitingInputsAreServed
  refine ⟨fun s => ?_, fun s => ?_⟩
  · obtain ⟨t, -, ht, -⟩ := step_advances s
    exact ⟨t, ht⟩
  · obtain ⟨t, added, ht, advances⟩ := run_advances s.inputs.length s
    have inputs := advances.inputs
    have count := advances.count
    rw [List.drop_length] at inputs
    rw [List.take_length, Nat.min_self] at count
    exact ⟨t, added, ht, inputs, advances.responses, count⟩

/-- Settles O54: k steps take the k oldest inputs, so input i is the oldest after i steps, and the next step serves
it. -/
theorem inputsAreServedInOrder : Obligations.InputsAreServedInOrder := by
  unfold Obligations.InputsAreServedInOrder
  intro s
  constructor
  · intro k
    obtain ⟨t, added, ht, inputs, responses, count⟩ := run_advances k s
    exact ⟨t, added, ht, inputs, responses, count⟩
  · intro i w hw
    obtain ⟨t, _, ht, advances⟩ := run_advances i s
    have oldest : t.inputs.head? = some (.request w) := by rw [advances.inputs, List.head?_drop, hw]
    obtain ⟨u, r, served⟩ := exists_serves oldest
    have ⟨_, hu, _⟩ := served
    exact ⟨t, u, r, ht, (run_succ_of_run ht).trans hu, served⟩

/-- Settles O44: the step serves the word, and serving it runs what it decodes to. -/
theorem stepRunsTheDecodedInstruction : Obligations.StepRunsTheDecodedInstruction := by
  unfold Obligations.StepRunsTheDecodedInstruction
  intro s w rest i hi hd
  exact (step_of_request hi).trans (serveWord_of_instr hd _)

end Sys2Proof
end

section
/-! SUPPORT. Request words as numbers: the encoder as a sum of fields, the decoder as the four cases of OP, and a word
covered by a row of the opcode table (30_encoding.md R31 to R36, R44). -/

namespace Sys2Proof

open Sys2Proof.Machine

/-- Fields that do not overlap: putting `b` above the bits of `a` adds it at its place. -/
theorem toNat_or_shiftLeft {N : Nat} (a b : BitVec N) (k : Nat) (ha : a.toNat < 2 ^ k) (hb : b.toNat * 2 ^ k < 2 ^ N) :
    (a ||| b <<< k).toNat = a.toNat + b.toNat * 2 ^ k := by
  rw [BitVec.toNat_or, BitVec.toNat_shiftLeft, Nat.shiftLeft_eq, Nat.mod_eq_of_lt hb, Nat.mul_comm, Nat.or_comm,
    ← Nat.two_pow_add_eq_or_of_lt ha, Nat.add_comm]

theorem encode_bcdEnc_toNat (v : Value) : (encode (.bcdEnc v)).toNat = v.toNat * 2 ^ 32 := by
  simp only [encode, BitVec.toNat_shiftLeft, BitVec.toNat_setWidth, Nat.shiftLeft_eq]
  omega

theorem encode_frameEnc_toNat (m h : BitVec 8) (d y : BitVec 16) : (encode (.frameEnc m h d y)).toNat =
    1 + m.toNat * 2 ^ 8 + h.toNat * 2 ^ 16 + d.toNat * 2 ^ 24 + y.toNat * 2 ^ 40 := by
  have one : (0x01#64).toNat = 1 := rfl
  have hm : (m.setWidth 64).toNat = m.toNat := BitVec.toNat_setWidth_of_le (by decide)
  have hh : (h.setWidth 64).toNat = h.toNat := BitVec.toNat_setWidth_of_le (by decide)
  have hd : (d.setWidth 64).toNat = d.toNat := BitVec.toNat_setWidth_of_le (by decide)
  have hy : (y.setWidth 64).toNat = y.toNat := BitVec.toNat_setWidth_of_le (by decide)
  have s1 := toNat_or_shiftLeft 0x01#64 (m.setWidth 64) 8 (by decide) (by omega)
  have s2 := toNat_or_shiftLeft _ (h.setWidth 64) 16 (by rw [s1]; omega) (by omega)
  have s3 := toNat_or_shiftLeft _ (d.setWidth 64) 24 (by rw [s2]; omega) (by omega)
  have s4 := toNat_or_shiftLeft _ (y.setWidth 64) 40 (by rw [s3]; omega) (by omega)
  rw [encode, s4, s3, s2, s1, hm, hh, hd, hy, one]

/-- A field as a number is cut out of the word by division. -/
theorem extractLsb'_eq_ofNat {N : Nat} (w : BitVec N) (a n : Nat) :
    w.extractLsb' a n = BitVec.ofNat n (w.toNat / 2 ^ a) := by
  apply BitVec.eq_of_toNat_eq
  rw [BitVec.extractLsb'_toNat, BitVec.toNat_ofNat, Nat.shiftRight_eq_div_pow]

theorem extractLsb'_eq_zero_iff {N : Nat} (w : BitVec N) (a n : Nat) :
    w.extractLsb' a n = 0#n ↔ w.toNat / 2 ^ a % 2 ^ n = 0 := by
  rw [← BitVec.toNat_inj, extractLsb'_eq_ofNat, BitVec.toNat_ofNat, BitVec.toNat_ofNat, Nat.zero_mod]

theorem reqOp_eq_iff (w : ReqWord) (op : BitVec 2) : reqOp w = op ↔ w.toNat % 4 = op.toNat := by
  rw [← BitVec.toNat_inj, reqOp_toNat]

/-- OP = 00 of 30_encoding.md R36. -/
theorem decode_of_op_zero {w : ReqWord} (h : w.toNat % 4 = 0) : decode w =
    if w.toNat / 4 % 2 ^ 30 ≠ 0 then .illegal .bcdEncReserved
    else .instr (.bcdEnc (BitVec.ofNat 32 (w.toNat / 2 ^ 32))) := by
  have op : reqOp w = 0b00#2 := (reqOp_eq_iff w _).2 h
  have reserved := extractLsb'_eq_zero_iff w 2 30
  simp only [decode, op, ↓reduceIte, Ne, reserved]
  rw [reqValue, extractLsb'_eq_ofNat]
  rfl

/-- OP = 01 of 30_encoding.md R36. -/
theorem decode_of_op_one {w : ReqWord} (h : w.toNat % 4 = 1) : decode w =
    if w.toNat / 4 % 2 ^ 6 ≠ 0 ∨ w.toNat / 2 ^ 56 ≠ 0 then .illegal .frameEncReserved
    else .instr (.frameEnc (BitVec.ofNat 8 (w.toNat / 2 ^ 8)) (BitVec.ofNat 8 (w.toNat / 2 ^ 16))
      (BitVec.ofNat 16 (w.toNat / 2 ^ 24)) (BitVec.ofNat 16 (w.toNat / 2 ^ 40))) := by
  have op : reqOp w = 0b01#2 := (reqOp_eq_iff w _).2 h
  have low := extractLsb'_eq_zero_iff w 2 6
  have high := extractLsb'_eq_zero_iff w 56 8
  rw [Nat.mod_eq_of_lt (by omega)] at high
  simp only [decode, op, ↓reduceIte, Ne, low, high]
  simp only [reqMinute, reqHour, reqDoy, reqYear, extractLsb'_eq_ofNat]
  rfl

/-- OP = 10 of 30_encoding.md R36. -/
theorem decode_of_op_two {w : ReqWord} (h : w.toNat % 4 = 2) : decode w =
    if w.toNat / 4 ≠ 0 then .illegal .frameReadReserved else .instr .frameRead := by
  have op : reqOp w = 0b10#2 := (reqOp_eq_iff w _).2 h
  have reserved := extractLsb'_eq_zero_iff w 2 62
  rw [Nat.mod_eq_of_lt (by omega)] at reserved
  simp only [decode, op, ↓reduceIte, Ne, reserved]
  rfl

/-- OP = 11 of 30_encoding.md R36. -/
theorem decode_of_op_three {w : ReqWord} (h : w.toNat % 4 = 3) : decode w = .illegal .reservedOp := by
  have op : reqOp w = 0b11#2 := (reqOp_eq_iff w _).2 h
  simp only [decode, op]
  rfl

theorem decode_encode (i : Instr) : decode (encode i) = .instr i := by
  cases i with
  | bcdEnc v =>
    have word := encode_bcdEnc_toNat v
    rw [decode_of_op_zero (by omega), if_neg (by omega), word, Nat.mul_div_cancel _ (by decide), BitVec.ofNat_toNat,
      BitVec.setWidth_eq]
  | frameEnc m h d y =>
    have word := encode_frameEnc_toNat m h d y
    rw [decode_of_op_one (by omega), if_neg (by omega)]
    congr <;> apply BitVec.eq_of_toNat_eq <;> rw [BitVec.toNat_ofNat] <;> omega
  | frameRead => exact decode_encode_frameRead

theorem encode_of_decode {w : ReqWord} {i : Instr} (h : decode w = .instr i) : encode i = w := by
  have word : w.toNat < 2 ^ 64 := w.isLt
  apply BitVec.eq_of_toNat_eq
  obtain ⟨op, reserved, rfl⟩ | ⟨op, low, high, rfl⟩ | ⟨op, reserved, rfl⟩ := decode_instr_cases h
  · rw [reqOp_eq_iff] at op
    rw [extractLsb'_eq_zero_iff] at reserved
    rw [encode_bcdEnc_toNat, reqValue, extractLsb'_eq_ofNat, BitVec.toNat_ofNat]
    simp only [BitVec.toNat_ofNat] at op
    omega
  · rw [reqOp_eq_iff] at op
    rw [extractLsb'_eq_zero_iff] at low high
    simp only [encode_frameEnc_toNat, reqMinute, reqHour, reqDoy, reqYear, extractLsb'_eq_ofNat, BitVec.toNat_ofNat]
      at op ⊢
    omega
  · rw [reqOp_eq_iff] at op
    rw [extractLsb'_eq_zero_iff] at reserved
    simp only [encode, BitVec.toNat_ofNat] at op ⊢
    omega

/-- A field the mask keeps whole stands in a covered word as in the row's match. -/
theorem extractLsb'_of_covers {r : OpRow} {w : ReqWord} (h : r.covers w = true) (a n : Nat)
    (kept : r.mask.extractLsb' a n = BitVec.allOnes n) : w.extractLsb' a n = r.pattern.extractLsb' a n := by
  rw [OpRow.covers, beq_iff_eq] at h
  rw [← h, BitVec.extractLsb'_and, kept, BitVec.and_allOnes]

theorem encodeFormat (i : Instr) : Laws.EncodeFormat.Statement i := by
  cases i with
  | bcdEnc v => exact Laws.EncodeFormat.bcdEnc v
  | frameEnc m h d y => exact Laws.EncodeFormat.frameEnc m h d y
  | frameRead => exact Laws.EncodeFormat.frameRead

theorem mnemonic_injOn_opTable : ∀ r ∈ opTable, ∀ r' ∈ opTable, r.mnemonic = r'.mnemonic → r = r' := by decide

theorem covers_of_decode {r : OpRow} {w : ReqWord} {i : Instr} (hr : r ∈ opTable) (hd : decode w = .instr i)
    (hm : i.mnemonic = r.mnemonic) : r.covers w = true := by
  obtain ⟨r', hr', hm', covers⟩ := encodeFormat i
  rwa [mnemonic_injOn_opTable r hr r' hr' (by rw [← hm, hm']), ← encode_of_decode hd]

theorem decode_of_covers {r : OpRow} {w : ReqWord} (hr : r ∈ opTable) (h : r.covers w = true) :
    ∃ i, decode w = .instr i ∧ i.mnemonic = r.mnemonic := by
  simp only [opTable, List.mem_cons, List.not_mem_nil, or_false] at hr
  obtain rfl | rfl | rfl := hr
  · have op : reqOp w = 0b00#2 := extractLsb'_of_covers h 0 2 (by decide)
    have reserved : w.extractLsb' 2 30 = 0#30 := extractLsb'_of_covers h 2 30 (by decide)
    exact ⟨.bcdEnc (reqValue w), by simp [decode, op, reserved], rfl⟩
  · have op : reqOp w = 0b01#2 := extractLsb'_of_covers h 0 2 (by decide)
    have low : w.extractLsb' 2 6 = 0#6 := extractLsb'_of_covers h 2 6 (by decide)
    have high : w.extractLsb' 56 8 = 0#8 := extractLsb'_of_covers h 56 8 (by decide)
    exact ⟨.frameEnc (reqMinute w) (reqHour w) (reqDoy w) (reqYear w), by simp [decode, op, low, high], rfl⟩
  · have op : reqOp w = 0b10#2 := extractLsb'_of_covers h 0 2 (by decide)
    have reserved : w.extractLsb' 2 62 = 0#62 := extractLsb'_of_covers h 2 62 (by decide)
    exact ⟨.frameRead, by simp [decode, op, reserved], rfl⟩

/-- A step that serves an illegal word answers ILLEGAL_REQUEST and marks the frame stale where OP = 01
(60_exceptions.md R113). -/
theorem step_of_illegal {w : ReqWord} {r : Illegal} (h : decode w = .illegal r) (s : State) (rest : List Input) :
    step { s with inputs := .request w :: rest } = .next { s with
      inputs := rest
      frameStale := if w.toNat % 4 = 1 then true else s.frameStale
      responses := s.responses ++ [Response.toWord { status := .illegalRequest }] } := by
  rw [step_of_request rfl, serveWord, h]
  simp only [State.answerIllegal_eq, ← decode_illegal_op h, reqOp_eq_one_iff]
  rfl

theorem SourceLine.assemble_bcdEnc (v : Nat) :
    (SourceLine.bcdEnc v).assemble = if v < 2 ^ 32 then some (BitVec.ofNat 64 (v * 2 ^ 32)) else none := by
  simp only [SourceLine.assemble, SourceLine.wellFormed, decide_eq_true_eq]
  split
  · refine congrArg some (BitVec.eq_of_toNat_eq ?_)
    rw [encode_bcdEnc_toNat, BitVec.toNat_ofNat, BitVec.toNat_ofNat]
    omega
  · rfl

theorem SourceLine.assemble_frameEnc (m h d y : Nat) : (SourceLine.frameEnc m h d y).assemble =
    if m < 2 ^ 8 ∧ h < 2 ^ 8 ∧ d < 2 ^ 16 ∧ y < 2 ^ 16
    then some (BitVec.ofNat 64 (1 + m * 2 ^ 8 + h * 2 ^ 16 + d * 2 ^ 24 + y * 2 ^ 40)) else none := by
  simp only [SourceLine.assemble, SourceLine.wellFormed, Bool.and_eq_true, decide_eq_true_eq, and_assoc]
  split
  · refine congrArg some (BitVec.eq_of_toNat_eq ?_)
    simp only [encode_frameEnc_toNat, BitVec.toNat_ofNat]
    omega
  · rfl

end Sys2Proof
end

section
/-! The statements of 30_encoding.md R30 to R36 and R43, R44 about request words. -/

namespace Sys2Proof

open Sys2Proof.Machine

/-- Settles O1: the word as a sum of fields falls under its OP's case, and division cuts each operand out again. -/
theorem decodeOfEncodeIsTheRequest : Obligations.DecodeOfEncodeIsTheRequest := decode_encode

/-- Settles O2: with the reserved bits zero, the fields that decoding cuts out sum up to the word. -/
theorem encodeOfDecodeIsTheWord : Obligations.EncodeOfDecodeIsTheWord := fun _ _ => encode_of_decode

/-- Settles O3: one lemma for each OP, and the step that serves an illegal word. -/
theorem decodeIsTheFourCases : Obligations.DecodeIsTheFourCases := fun _ =>
  ⟨decode_of_op_zero, decode_of_op_one, decode_of_op_two, decode_of_op_three,
    fun _ s rest h => step_of_illegal h s rest⟩

/-- Settles O4: a covered word has the row's OP and reserved bits, and a word that decodes is an encoded word, which its
row covers. -/
theorem opcodeRowsCoverExactlyTheirRequests : Obligations.OpcodeRowsCoverExactlyTheirRequests := by
  unfold Obligations.OpcodeRowsCoverExactlyTheirRequests
  intro r hr w
  exact ⟨decode_of_covers hr, fun ⟨_, hd, hm⟩ => covers_of_decode hr hd hm⟩

/-- Settles O5, by evaluating the decoder on the seven words. -/
theorem writtenOutWordsDecode : Obligations.WrittenOutWordsDecode := by
  unfold Obligations.WrittenOutWordsDecode
  decide

/-- Settles O6: the encoder as a sum of fields, and the check that every operand fits. -/
theorem assemblyGivesTheWordOfTheRule : Obligations.AssemblyGivesTheWordOfTheRule := by
  unfold Obligations.AssemblyGivesTheWordOfTheRule
  refine ⟨SourceLine.assemble_bcdEnc, SourceLine.assemble_frameEnc, rfl, fun w => ?raw, by decide⟩
  case raw => simp only [SourceLine.assemble, SourceLine.wellFormed, decide_eq_true_eq]

end Sys2Proof
end

section
/-! SUPPORT. Response words as sums of their fields, read back, and which fields the answer to a request word names
(30_encoding.md R37 to R40). -/

namespace Sys2Proof.Machine

theorem Response.toWord_toNat (r : Response) : r.toWord.toNat = r.status.code.toNat + r.stale.toNat * 2 ^ 3
    + r.errField.code.toNat * 2 ^ 4 + r.value.toNat * 2 ^ 8 + r.frame.toNat * 2 ^ 64 := by
  have h0 : (r.status.code.setWidth 192).toNat = r.status.code.toNat := BitVec.toNat_setWidth_of_le (by decide)
  have h1 : ((BitVec.ofBool r.stale).setWidth 192).toNat = r.stale.toNat := by
    rw [BitVec.toNat_setWidth_of_le (by decide), BitVec.toNat_ofBool]
  have h2 : (r.errField.code.setWidth 192).toNat = r.errField.code.toNat := BitVec.toNat_setWidth_of_le (by decide)
  have h3 : (r.value.setWidth 192).toNat = r.value.toNat := BitVec.toNat_setWidth_of_le (by decide)
  have h4 : (r.frame.setWidth 192).toNat = r.frame.toNat := BitVec.toNat_setWidth_of_le (by decide)
  have := r.stale.toNat_lt
  have s1 := toNat_or_shiftLeft (r.status.code.setWidth 192) ((BitVec.ofBool r.stale).setWidth 192) 3 (by omega)
    (by omega)
  have s2 := toNat_or_shiftLeft _ (r.errField.code.setWidth 192) 4 (by rw [s1]; omega) (by omega)
  have s3 := toNat_or_shiftLeft _ (r.value.setWidth 192) 8 (by rw [s2]; omega) (by omega)
  have s4 := toNat_or_shiftLeft _ (r.frame.setWidth 192) 64 (by rw [s3]; omega) (by omega)
  rw [Response.toWord, s4, s3, s2, s1, h0, h1, h2, h3, h4]

theorem Response.ofWord_toWord (r : Response) : Response.ofWord r.toWord = some r := by
  have stale : (BitVec.ofBool r.stale == 1#1) = r.stale := by cases r.stale <;> rfl
  simp [Response.ofWord, stale]

theorem Response.toWord_of_ofWord {w : RespWord} {r : Response} (h : Response.ofWord w = some r) : r.toWord = w := by
  unfold Response.ofWord at h
  split at h
  · next status errField hs he =>
    split at h
    · next hres =>
      cases h
      have cs := congrArg BitVec.toNat (Status.code_of_ofCode hs)
      have ce := congrArg BitVec.toNat (ErrField.code_of_ofCode he)
      have stale : (respStale w == 1#1).toNat = (respStale w).toNat := by
        generalize respStale w = b
        revert b
        decide
      simp only [respReservedZero, Bool.and_eq_true, beq_iff_eq, extractLsb'_eq_zero_iff] at hres
      obtain ⟨⟨r7, r40⟩, r184⟩ := hres
      have := w.isLt
      apply BitVec.eq_of_toNat_eq
      rw [Response.toWord_toNat, cs, ce, stale]
      simp only [respStatus, respStale, respErrField, respValue, respFrame, extractLsb'_eq_ofNat, BitVec.toNat_ofNat]
      omega
    · cases h
  · cases h

/-- The responses a request word can have, by its OP: an error's record, or what the rule of its request names
(30_encoding.md R38). -/
inductive AnswerTo (w : ReqWord) : Response → Prop where
  | error (e : RequestError) : AnswerTo w e.response
  | result (op : w.toNat % 4 = 0) (v : Value) : AnswerTo w { status := .ok, value := v }
  | newFrame (op : w.toNat % 4 = 1) (v : FrameVec) : AnswerTo w { status := .ok, frame := v }
  | keptFrame (op : w.toNat % 4 = 2) (stale : Bool) (v : FrameVec) : AnswerTo w { status := .ok, stale, frame := v }

theorem answerTo_bcdEncResponse {w : ReqWord} (op : w.toNat % 4 = 0) (n : BcdWidth) (v : Value) :
    AnswerTo w (bcdEncResponse n v) := by
  unfold bcdEncResponse
  split
  · exact .result op _
  · exact .error _

theorem answerTo_frameReadResponse {w : ReqWord} (op : w.toNat % 4 = 2) (s : State) :
    AnswerTo w (frameReadResponse s) := by
  unfold frameReadResponse
  split
  · exact .keptFrame op _ _
  · exact .error .noFrame

theorem serveWord_answer (w : ReqWord) (s : State) :
    ∃ t q, serveWord w s = .next t ∧ t.responses = s.responses ++ [q.toWord] ∧ AnswerTo w q := by
  obtain ⟨i, hd, hw⟩ | ⟨r, -, hw⟩ := serveWord_cases w s <;> rw [hw]
  · obtain ⟨op, -, rfl⟩ | ⟨op, -, -, rfl⟩ | ⟨op, -, rfl⟩ := decode_instr_cases hd <;> rw [reqOp_eq_iff] at op
    · exact ⟨_, _, execBcdEnc_eq _ s, rfl, answerTo_bcdEncResponse op _ _⟩
    · obtain ⟨v, -, hv⟩ | ⟨e, -, he⟩ := execFrameEnc_cases (reqMinute w) (reqHour w) (reqDoy w) (reqYear w) s
      · exact ⟨_, _, hv, rfl, .newFrame op v⟩
      · exact ⟨_, _, he, rfl, .error e⟩
    · exact ⟨_, _, execFrameRead_eq s, rfl, answerTo_frameReadResponse op s⟩
  · exact ⟨_, _, rfl, by rw [State.answerIllegal_eq], .error .illegalRequest⟩

theorem Serves.answer {s t : State} {w : ReqWord} {r : RespWord} (h : Serves s w t r) :
    ∃ q : Response, r = q.toWord ∧ AnswerTo w q := by
  obtain ⟨rest, -, hw⟩ := h.exists_serveWord
  obtain ⟨-, -, hr⟩ := h
  obtain ⟨u, q, hu, hq, answer⟩ := serveWord_answer w (s.withInputs rest)
  cases hu.symm.trans hw
  exact ⟨q, by simpa [hr] using hq, answer⟩

theorem RequestError.response_frame_stale (e : RequestError) : e.response.frame = 0#120 ∧ e.response.stale = false := by
  cases e <;> exact ⟨rfl, rfl⟩

theorem RequestError.response_records_nothing {e : RequestError}
    (h : e.response.status.code = 3#3 ∨ e.response.status.code = 4#3) :
    e.response.errField.code = 0#3 ∧ e.response.value = 0#32 := by
  cases e with
  | numberTooLarge f v => simp [RequestError.response, Status.code] at h
  | fieldOutOfRange f v => simp [RequestError.response, Status.code] at h
  | illegalRequest => exact ⟨rfl, rfl⟩
  | noFrame => exact ⟨rfl, rfl⟩

end Sys2Proof.Machine
end

section
/-! The statements of 30_encoding.md R37 to R40 about response words. -/

namespace Sys2Proof

open Sys2Proof.Machine

/-- Settles O7: the fields do not overlap, and the codes are those of R39 and R40. -/
theorem responseWordIsTheSumOfItsFields : Obligations.ResponseWordIsTheSumOfItsFields := by
  unfold Obligations.ResponseWordIsTheSumOfItsFields
  intro r
  rw [Response.toWord_toNat]
  congr 4
  · cases r.status <;> rfl
  · cases r.stale <;> rfl
  · cases r.errField <;> rfl

/-- Settles O8: each field is read at its place, and the fields and zero reserved bits of a word that is read sum up to
it. -/
theorem responseWordsReadBack : Obligations.ResponseWordsReadBack :=
  ⟨Response.ofWord_toWord, fun _ _ => Response.toWord_of_ofWord⟩

/-- Settles O38: an answer is an error's record or one of the three OK forms, and each leaves the other fields zero. -/
theorem unnamedResponseFieldsAreZero : Obligations.UnnamedResponseFieldsAreZero := by
  unfold Obligations.UnnamedResponseFieldsAreZero
  intro s t w r h
  obtain ⟨q, rfl, answer⟩ := h.answer
  simp only [respReservedZero_toWord, respStatus_toWord, respStale_toWord, respErrField_toWord, respValue_toWord,
    respFrame_toWord]
  cases answer with
  | error e =>
    obtain ⟨frame, stale⟩ := e.response_frame_stale
    exact ⟨trivial, fun _ => ⟨frame, by rw [stale]; rfl⟩, RequestError.response_records_nothing,
      fun ok => absurd ok e.status_code_ne_ok⟩
  | result op v => simp [op, Status.code, ErrField.code]
  | newFrame op v => simp [op, Status.code, ErrField.code]
  | keptFrame op stale v => simp [op, Status.code, ErrField.code]

end Sys2Proof
end

section
/-! SUPPORT. Frame vectors as sums of symbol codes, and the frame of a timestamp as the position table (30_encoding.md
R42, 41_frame_encoder.md R72). -/

namespace Sys2Proof.Machine

theorem packFrame_lt (l : List Symbol) : (packFrame l).toNat < 2 ^ (2 * l.length) := by
  induction l with
  | nil => decide
  | cons x xs ih =>
    have hx := x.code.isLt
    rw [packFrame, BitVec.toNat_or, List.length_cons]
    apply Nat.or_lt_two_pow
    · calc (x.code.setWidth 120).toNat = x.code.toNat := BitVec.toNat_setWidth_of_le (by decide)
        _ < 2 ^ 2 := hx
        _ ≤ 2 ^ (2 * (xs.length + 1)) := Nat.pow_le_pow_right (by decide) (by omega)
    · calc (packFrame xs <<< 2).toNat ≤ (packFrame xs).toNat * 2 ^ 2 := by
            rw [BitVec.toNat_shiftLeft, Nat.shiftLeft_eq]; exact Nat.mod_le _ _
        _ < 2 ^ (2 * (xs.length + 1)) := by rw [Nat.mul_succ, Nat.pow_add]; omega

/-- The code of the symbol at position p of a list, and 0 past its end. -/
def codeAt (l : List Symbol) (p : Nat) : Nat := (l[p]?.map fun x => x.code.toNat).getD 0

theorem packFrame_toNat (l : List Symbol) (h60 : l.length ≤ 60) :
    (packFrame l).toNat = ((List.range l.length).map fun p => codeAt l p * 2 ^ (2 * p)).sum := by
  induction l with
  | nil => rfl
  | cons x xs ih =>
    rw [List.length_cons] at h60
    have hx : (x.code.setWidth 120).toNat = x.code.toNat := BitVec.toNat_setWidth_of_le (by decide)
    have room : (packFrame xs).toNat * 2 ^ 2 < 2 ^ 120 := by
      have : 2 ^ (2 * xs.length) ≤ 2 ^ 118 := Nat.pow_le_pow_right (by decide) (by omega)
      have := packFrame_lt xs
      omega
    have higher : ∀ p, codeAt (x :: xs) (p + 1) * 2 ^ (2 * (p + 1)) = codeAt xs p * 2 ^ (2 * p) * 2 ^ 2 := fun p => by
      rw [Nat.mul_assoc, ← Nat.pow_add]; rfl
    rw [packFrame, toNat_or_shiftLeft _ _ 2 (by omega) room, ih (by omega), hx, List.length_cons,
      List.range_succ_eq_map, List.map_cons, List.sum_cons, List.map_map, ← List.sum_map_mul_right]
    congr 1
    · simp [codeAt]
    · exact congrArg List.sum (List.map_congr_left fun p _ => (higher p).symm)

/-- A reader that refuses no element of a list reads the whole list. -/
theorem mapM_eq_some_map {α β : Type} {f : α → Option β} {g : α → β} {l : List α} (h : ∀ a ∈ l, f a = some (g a)) :
    l.mapM f = some (l.map g) := by
  induction l with
  | nil => rfl
  | cons a l ih =>
    rw [List.mapM_cons, h a (by simp), ih fun b hb => h b (by simp [hb])]
    rfl

theorem symbolAt_packFrame_eq_getElem? (l : List Symbol) (hl : l.length = 60) (p : Nat) (hp : p < 60) :
    symbolAt (packFrame l) p = l[p]? := by
  rw [symbolAt_packFrame l p (by omega) hp, List.getElem?_eq_getElem]

theorem unpackFrame_packFrame (l : List Symbol) (hl : l.length = 60) : unpackFrame (packFrame l) = some l := by
  have read : ∀ p ∈ List.range 60, symbolAt (packFrame l) p = some (l.getD p .low) := fun p hp => by
    have hp60 : p < 60 := List.mem_range.1 hp
    rw [symbolAt_packFrame l p (by omega) hp60, List.getD_eq_getElem]
  rw [unpackFrame, mapM_eq_some_map read]
  refine congrArg some (List.ext_getElem (by simp [hl]) fun p _ hp => ?_)
  simp [hp]

/-- The table's reading of a weight is the weighted bit of the digits (40_bcd_encoder.md R54, R55). -/
theorem decWeight_value (v : Nat) (w : Weight) (h : w.lane ≤ 2) :
    decWeight v w.value = (decDigit v w.lane).testBit w.bit.val := by
  have place : (if w.value < 10 then 1 else if w.value < 100 then 10 else 100) = 10 ^ w.lane := by
    obtain ⟨lane, bit⟩ := w
    interval_cases lane <;> fin_cases bit <;> rfl
  have weight : w.value / 10 ^ w.lane = 2 ^ w.bit.val := Nat.mul_div_cancel _ (by positivity)
  simp only [decWeight, place, weight, decDigit, Nat.testBit_eq_decide_div_mod_eq, Bool.beq_eq_decide_eq]

theorem leapYear_eq (year : BitVec 16) : leapYear year = decide (Gregorian year.toNat) := by
  unfold leapYear Gregorian
  grind

theorem weightedBit_eq_decWeight {n : BcdWidth} {v : Nat} (hv : Fits n v) (w : Weight) (h : w.lane ≤ 2) :
    weightedBit (BitVec.ofNat n.bits (packedDigits n.digits v)) w = decWeight v w.value := by
  rw [weightedBit_packedDigits hv, decWeight_value v w h]

/-- The layout of 41_frame_encoder.md R71 is the table of R72, symbol by symbol: each weighted bit is the table's
reading of the digits. -/
theorem layout_eq_table {n : BcdWidth} {m h : BitVec 8} {d y : BitVec 16} (hf : FieldsFit n m h d y) :
    layout (packedFields n m h d y) (leapYear y)
      = (List.range 60).map (tableSymbol m.toNat h.toNat d.toNat y.toNat) := by
  obtain ⟨hm, hh, hd, hy⟩ := hf
  have read_m := weightedBit_eq_decWeight hm
  have read_h := weightedBit_eq_decWeight hh
  have read_d := weightedBit_eq_decWeight hd
  have read_y := weightedBit_eq_decWeight hy
  simp only [layout, minutesField, hoursField, doyField, yearField, dut1Sign, dut1Magnitude, leapSecondPending,
    dstStatus, packedFields, leapYear_eq, List.map_cons, List.map_nil, read_m, read_h, read_d, read_y, w1, w2, w4, w8,
    w10, w20, w40, w80, w100, w200, Nat.zero_le, Nat.one_le_ofNat, Nat.le_refl]
  simp [List.range, List.range.loop, tableSymbol, sym, Weight.value, markPositions, minutePositions, hourPositions,
    doyPositions, yearPositions, List.lookup]

/-- The frame that encoding a timestamp gives where it succeeds (`encodeFrame_ok_iff`; 41_frame_encoder.md R86). -/
def timestampFrame (n : BcdWidth) (m h : BitVec 8) (d y : BitVec 16) : FrameVec :=
  packFrame (layout (packedFields n m h d y) (leapYear y))

/-- The position table, read out of the frame vector (41_frame_encoder.md R72, 30_encoding.md R42). -/
theorem extractLsb'_frame {n : BcdWidth} {m h : BitVec 8} {d y : BitVec 16} (hf : FieldsFit n m h d y) {p : Nat}
    (hp : p < 60) : (timestampFrame n m h d y).extractLsb' (2 * p) 2
      = (tableSymbol m.toNat h.toNat d.toNat y.toNat p).code := by
  rw [timestampFrame, packFrame_extract _ p (by rw [layout_length]; exact hp) hp]
  simp only [layout_eq_table hf, List.getElem_map, List.getElem_range]

theorem showsTimestamp_of_fieldsFit {n : BcdWidth} {m h : BitVec 8} {d y : BitVec 16} (hf : FieldsFit n m h d y) :
    ShowsTimestamp (timestampFrame n m h d y) m h d y := by
  intro p hp
  rw [symbolAt, extractLsb'_frame hf hp, Symbol.ofCode_code]

/-- The leading hexadecimal digit is the marker at 59 above the `Low` at 58 (30_encoding.md R42). -/
theorem frame_leading_digit {n : BcdWidth} {m h : BitVec 8} {d y : BitVec 16} (hf : FieldsFit n m h d y) :
    (timestampFrame n m h d y).toNat / 2 ^ 116 = 8 := by
  have low := congrArg BitVec.toNat (extractLsb'_frame hf (p := 58) (by decide))
  have mark := congrArg BitVec.toNat (extractLsb'_frame hf (p := 59) (by decide))
  have low_58 : tableSymbol m.toNat h.toNat d.toNat y.toNat 58 = .low := rfl
  have mark_59 : tableSymbol m.toNat h.toNat d.toNat y.toNat 59 = .mark := rfl
  rw [low_58, extractLsb'_eq_ofNat, BitVec.toNat_ofNat, Symbol.code, BitVec.toNat_ofNat] at low
  rw [mark_59, extractLsb'_eq_ofNat, BitVec.toNat_ofNat, Symbol.code, BitVec.toNat_ofNat] at mark
  have := (timestampFrame n m h d y).isLt
  omega

/-- A FRAME_ENC that succeeds has its fields in range and within capacity, and keeps the layout's frame. -/
theorem FrameEncSucceeds.frameReg_eq {m h : BitVec 8} {d y : BitVec 16} {s t : State}
    (ok : FrameEncSucceeds m h d y s t) :
    InRange m h d ∧ FieldsFit s.config.bcdWidth m h d y
      ∧ t.frameReg = timestampFrame s.config.bcdWidth m h d y := by
  obtain ⟨hexec, hstale⟩ := ok
  obtain ⟨v, hv, hnext⟩ | ⟨e, -, hnext⟩ := execFrameEnc_cases m h d y s
  · cases hnext.symm.trans hexec
    exact (encodeFrame_ok_iff s.config.bcdWidth m h d y v).1 hv
  · cases hnext.symm.trans hexec
    simp at hstale

theorem Symbol.code_ne_eleven (x : Symbol) : x.code ≠ 0b11#2 := by cases x <;> decide

end Sys2Proof.Machine
end

section
/-! The statements of 30_encoding.md R41 and R42 about symbols and frame vectors. -/

namespace Sys2Proof

open Sys2Proof.Machine

/-- Settles O9: the sum and the read-back of any 60 symbols by induction on the list, the leading digit from the
position table. -/
theorem frameVectorHoldsSymbolsInPlace : Obligations.FrameVectorHoldsSymbolsInPlace := by
  unfold Obligations.FrameVectorHoldsSymbolsInPlace
  constructor
  · intro l hl
    have sum := packFrame_toNat l (by omega)
    rw [hl] at sum
    exact ⟨sum, symbolAt_packFrame_eq_getElem? l hl, unpackFrame_packFrame l hl⟩
  · intro m h d y s t ok
    obtain ⟨-, fit, frame⟩ := ok.frameReg_eq
    rw [frame]
    exact frame_leading_digit fit

/-- Settles O10: every position of a successful frame holds the code of a symbol of the table, and no symbol has code
11. -/
theorem symbolCodesNeverEleven : Obligations.SymbolCodesNeverEleven := by
  unfold Obligations.SymbolCodesNeverEleven
  refine ⟨by decide, fun m h d y s t ok p hp => ?_⟩
  obtain ⟨-, fit, frame⟩ := ok.frameReg_eq
  rw [frame, extractLsb'_frame fit hp]
  exact Symbol.code_ne_eleven _

end Sys2Proof
end

section
/-! SUPPORT. Every response a request can have is legal, and every input keeps a safe state safe. -/

namespace Sys2Proof.Machine

theorem encodesTimestamp_of_encodeFrame {n : BcdWidth} {m h : BitVec 8} {d y : BitVec 16} {v : FrameVec}
    (hv : encodeFrame n.bits m h d y = .ok v) : EncodesTimestamp v := by
  obtain ⟨range, fit, rfl⟩ := (encodeFrame_ok_iff n m h d y v).1 hv
  exact ⟨m, h, d, y, range, showsTimestamp_of_fieldsFit fit⟩

/-- RESULT holds decimal digits in all eight lanes, whatever N is. -/
theorem lane_setWidth_packedDigits_le (n : BcdWidth) (v k : Nat) :
    lane ((BitVec.ofNat n.bits (packedDigits n.digits v)).setWidth 32) k ≤ 9 := by
  have fits : packedDigits n.digits v < 2 ^ n.bits := by
    rw [← four_mul_digits, pow_mul]; exact packedDigits_lt n.digits v
  have wide : n.bits ≤ 32 := by cases n <;> decide
  have lane_eq : lane ((BitVec.ofNat n.bits (packedDigits n.digits v)).setWidth 32) k
      = packedDigits n.digits v / 16 ^ k % 16 := by
    rw [lane, BitVec.extractLsb'_toNat, BitVec.toNat_setWidth_of_le wide, BitVec.toNat_ofNat, Nat.mod_eq_of_lt fits,
      Nat.shiftRight_eq_div_pow, pow_mul]
    rfl
  rw [lane_eq]
  by_cases hk : k < n.digits
  · rw [packedDigits_div_mod _ _ _ hk, decDigit]
    omega
  · have : packedDigits n.digits v < 16 ^ k :=
      lt_of_lt_of_le (packedDigits_lt n.digits v) (Nat.pow_le_pow_right (by decide) (by omega))
    rw [Nat.div_eq_of_lt this]
    decide

theorem bcdEncResponse_legal (n : BcdWidth) (v : Value) : (bcdEncResponse n v).Legal := by
  unfold bcdEncResponse
  split
  · exact ⟨rfl, .inl ⟨rfl, rfl, fun k _ => lane_setWidth_packedDigits_le n v.toNat k⟩⟩
  · exact ⟨rfl, rfl⟩

theorem frameResponse_legal {v : FrameVec} (hv : EncodesTimestamp v) (stale : Bool) :
    Response.Legal { status := .ok, stale, frame := v } :=
  ⟨rfl, .inr ⟨rfl, hv⟩⟩

theorem encodeFrame_error_legal {n : BcdWidth} {m h : BitVec 8} {d y : BitVec 16} {e : RequestError}
    (he : encodeFrame n.bits m h d y = .error e) : e.response.Legal := by
  obtain ⟨-, -, hc⟩ | ⟨-, hc⟩ | ⟨-, -, hc⟩ | ⟨-, -, -, hc⟩ | ⟨-, -, hc⟩ | ⟨-, -, -, hc⟩ | ⟨-, -, -, -, hc⟩ |
    ⟨-, -, -, -, -, hc⟩ := encodeFrame_cases n m h d y <;> cases hc.symm.trans he
  · exact ⟨rfl, rfl, .inl rfl⟩
  · exact ⟨rfl, rfl, .inr (.inl rfl)⟩
  · exact ⟨rfl, rfl, .inr (.inr rfl)⟩
  all_goals exact ⟨rfl, rfl⟩

section Safe

variable {s t : State}

theorem SafeState.respond (safe : SafeState s) {q : Response} (hq : q.Legal) : SafeState (s.respond q) where
  frame := safe.frame
  responses := by
    intro w hw
    rw [State.respond_responses, List.mem_append, List.mem_singleton] at hw
    obtain old | rfl := hw
    · exact safe.responses w old
    · exact ⟨q, rfl, hq⟩

theorem SafeState.failFrame (safe : SafeState s) {e : RequestError} (he : e.response.Legal) :
    SafeState (s.failFrame e) :=
  SafeState.respond (s := s.markStale) ⟨safe.frame, safe.responses⟩ he

theorem SafeState.keepFrame (safe : SafeState s) {v : FrameVec} (hv : EncodesTimestamp v) : SafeState (s.keepFrame v) :=
  ⟨fun _ => hv, safe.responses⟩

theorem SafeState.takeReset (safe : SafeState s) : SafeState s.takeReset :=
  ⟨by simp, safe.responses⟩

theorem SafeState.withInputs (safe : SafeState s) (l : List Input) : SafeState (s.withInputs l) :=
  ⟨safe.frame, safe.responses⟩

theorem SafeState.tick (safe : SafeState s) : SafeState s.tick :=
  ⟨safe.frame, safe.responses⟩

theorem SafeState.frameReadResponse_legal (safe : SafeState s) : (frameReadResponse s).Legal := by
  unfold frameReadResponse
  split
  · next valid => exact frameResponse_legal (safe.frame valid) s.frameStale
  · exact rfl

theorem SafeState.exec (safe : SafeState s) {i : Instr} (h : Machine.exec i s = .next t) : SafeState t := by
  cases i with
  | bcdEnc v =>
    cases (execBcdEnc_eq v s).symm.trans h
    exact safe.respond (bcdEncResponse_legal _ v)
  | frameEnc m ho d y =>
    obtain ⟨v, hv, hnext⟩ | ⟨e, he, hnext⟩ := execFrameEnc_cases m ho d y s <;> cases hnext.symm.trans h
    · have shown := encodesTimestamp_of_encodeFrame hv
      exact (safe.keepFrame shown).respond (frameResponse_legal shown false)
    · exact safe.failFrame (encodeFrame_error_legal he)
  | frameRead =>
    cases (execFrameRead_eq s).symm.trans h
    exact safe.respond safe.frameReadResponse_legal

theorem SafeState.answerIllegal (safe : SafeState s) (r : Illegal) : SafeState (s.answerIllegal r) := by
  unfold State.answerIllegal
  split
  · exact safe.failFrame rfl
  · exact safe.respond rfl

theorem SafeState.serveWord (safe : SafeState s) {w : ReqWord} (h : Machine.serveWord w s = .next t) :
    SafeState t := by
  obtain ⟨i, -, hw⟩ | ⟨r, -, hw⟩ := serveWord_cases w s
  · exact safe.exec (hw.symm.trans h)
  · cases hw.symm.trans h
    exact safe.answerIllegal r

theorem SafeState.serveWordUnderReset (safe : SafeState s) {w : ReqWord}
    (h : Machine.serveWordUnderReset w s = .next t) : SafeState t := by
  obtain ⟨u, hu, completed⟩ | discarded := serveWordUnderReset_cases w s
  · cases completed.symm.trans h
    exact (safe.tick.serveWord hu).takeReset
  · cases discarded.symm.trans h
    exact safe.tick.takeReset

theorem SafeState.step (safe : SafeState s) (h : Machine.step s = .next t) : SafeState t := by
  obtain ⟨-, rfl⟩ | ⟨w, rest, -, hw⟩ | ⟨rest, -, rfl⟩ | ⟨w, rest, -, hw⟩ := step_cases h
  · exact safe
  · exact (safe.withInputs rest).serveWord hw
  · exact (safe.withInputs rest).takeReset
  · exact (safe.withInputs rest).serveWordUnderReset hw

end Safe

end Sys2Proof.Machine
end

section
/-! The statement that safety is an invariant (41_frame_encoder.md R84, R86, R88; 30_encoding.md R37 to R40). -/

namespace Sys2Proof

open Sys2Proof.Machine

/-- Settles O53: each request answers legally and keeps only frames of timestamps in range, and a reset keeps
nothing. -/
theorem stepsKeepStatesSafe : Obligations.StepsKeepStatesSafe := fun _ _ safe h => safe.step h

end Sys2Proof
end

section
/-! SUPPORT. The BCD Encoder's results as numbers: when a conversion succeeds, what its lanes and bits hold, and what
they weigh (40_bcd_encoder.md R52 to R56). -/

namespace Sys2Proof.Machine

theorem packedDigits_lt_two_pow_bits (n : BcdWidth) (x : Nat) : packedDigits n.digits x < 2 ^ n.bits := by
  rw [← four_mul_digits, pow_mul]
  exact packedDigits_lt n.digits x

/-- A conversion succeeds exactly on the numbers that fit, with the number's packed digits (40_bcd_encoder.md R52). -/
theorem bcd_eq_ok_iff {n : BcdWidth} {v : Value} {B : BitVec n.bits} :
    bcd n.bits v = .ok B ↔ Fits n v.toNat ∧ B.toNat = packedDigits n.digits v.toNat := by
  rw [bcd_eq]
  split
  · next fit =>
    rw [BcdResult.ok.injEq, ← BitVec.toNat_inj, BitVec.toNat_ofNat,
      Nat.mod_eq_of_lt (packedDigits_lt_two_pow_bits n v.toNat)]
    simp only [fit, true_and, eq_comm]
  · next unfit => simp [unfit]

theorem bcd_eq_overflow_of_le {n : BcdWidth} {v : Value} (h : 10 ^ n.digits ≤ v.toNat) :
    bcd n.bits v = .overflow v := by
  rw [bcd_eq, if_neg (Nat.not_lt.2 h)]

theorem exists_bcd_eq_ok {n : BcdWidth} {v : Value} (fit : Fits n v.toNat) : ∃ B, bcd n.bits v = .ok B :=
  ⟨_, by rw [bcd_eq, if_pos fit]⟩

/-- 10^8 is a Value and has more digits than even N = 32 holds. -/
theorem exists_overflow (n : BcdWidth) : ∃ v, bcd n.bits v = .overflow v := by
  refine ⟨100000000#32, bcd_eq_overflow_of_le ?_⟩
  cases n <;> decide

/-! ## Lanes and bits -/

theorem lane_eq_div_mod {N : Nat} (B : BitVec N) (k : Nat) : lane B k = B.toNat / 16 ^ k % 16 := by
  rw [lane, BitVec.extractLsb'_toNat, Nat.shiftRight_eq_div_pow, pow_mul]
  rfl

/-- Every lane of packed digits is a decimal digit; the lanes above them are the zeros in front of the number. -/
theorem lane_eq_decDigit {N : Nat} {B : BitVec N} {room x : Nat} (hB : B.toNat = packedDigits room x)
    (hx : x < 10 ^ room) (k : Nat) : lane B k = decDigit x k := by
  rw [lane_eq_div_mod, hB]
  by_cases hk : k < room
  · exact packedDigits_div_mod room x k hk
  · have above : packedDigits room x < 16 ^ k :=
      (packedDigits_lt room x).trans_le (Nat.pow_le_pow_right (by decide) (by omega))
    have leading : x < 10 ^ k := hx.trans_le (Nat.pow_le_pow_right (by decide) (by omega))
    rw [decDigit, Nat.div_eq_of_lt above, Nat.div_eq_of_lt leading]

theorem decDigit_le (x k : Nat) : decDigit x k ≤ 9 := Nat.le_of_lt_succ (Nat.mod_lt _ (by decide))

theorem decDigit_eq_zero_of_digits_length_le {x k : Nat} (h : (Nat.digits 10 x).length ≤ k) : decDigit x k = 0 := by
  have : x < 10 ^ k := (Nat.lt_base_pow_length_digits (by decide)).trans_le (Nat.pow_le_pow_right (by decide) h)
  rw [decDigit, Nat.div_eq_of_lt this]

/-- Nothing is stored above the number's own digits (40_bcd_encoder.md R52). -/
theorem getLsbD_eq_false_of_digits_length_le {N : Nat} {B : BitVec N} {room x i : Nat}
    (hB : B.toNat = packedDigits room x) (hi : 4 * (Nat.digits 10 x).length ≤ i) : B.getLsbD i = false := by
  have zero : decDigit x (i / 4) = 0 := decDigit_eq_zero_of_digits_length_le (by omega)
  rw [BitVec.getLsbD, hB, packedDigits_testBit, zero]
  simp

/-! ## Decimal weights -/

/-- The digits of a number, each at its weight, add up to the number. -/
theorem sum_decDigit (room x : Nat) :
    ((List.range room).map fun k => decDigit x k * 10 ^ k).sum = x % 10 ^ room := by
  induction room with
  | zero => simp [Nat.mod_one]
  | succ room ih =>
    rw [List.range_succ, List.map_append, List.sum_append, ih, Nat.mod_pow_succ, Nat.mul_comm (10 ^ room)]
    simp [decDigit]

theorem sum_lane_eq {N : Nat} {B : BitVec N} {room x : Nat} (hB : B.toNat = packedDigits room x) (hx : x < 10 ^ room) :
    ((List.range room).map fun k => lane B k * 10 ^ k).sum = x := by
  simp only [lane_eq_decDigit hB hx, sum_decDigit, Nat.mod_eq_of_lt hx]

theorem nibble_toNat_eq (x : BitVec 4) : ((List.range 4).map fun b => (x.getLsbD b).toNat * 2 ^ b).sum = x.toNat := by
  revert x
  decide

/-- The four bits of lane k, each at the weight 2^b * 10^k, add up to the lane at 10^k (40_bcd_encoder.md R54). -/
theorem sum_bits_eq_lane_mul {N : Nat} (B : BitVec N) (k : Nat) :
    ((List.range 4).map fun b => (B.getLsbD (4 * k + b)).toNat * (2 ^ b * 10 ^ k)).sum = lane B k * 10 ^ k := by
  rw [lane, ← nibble_toNat_eq, ← List.sum_map_mul_right]
  refine congrArg List.sum (List.map_congr_left fun b hb => ?_)
  rw [BitVec.getLsbD_extractLsb', decide_eq_true (List.mem_range.1 hb), Bool.true_and, Nat.mul_assoc]

/-! ## Masks -/

/-- The mask of an existing lane is the weight's single bit (40_bcd_encoder.md R55). -/
theorem mask_toNat {N : Nat} {w : Weight} (h : 4 * w.lane + w.bit.val < N) :
    (w.mask N).toNat = 2 ^ w.bit.val * 2 ^ (4 * w.lane) := by
  have low : 2 ^ w.bit.val < 2 ^ N := Nat.pow_lt_pow_right (by decide) (by omega)
  have placed : 2 ^ w.bit.val * 2 ^ (4 * w.lane) < 2 ^ N := by
    rw [← pow_add]
    exact Nat.pow_lt_pow_right (by decide) (by omega)
  rw [Weight.mask, BitVec.toNat_shiftLeft, BitVec.toNat_ofNat, Nat.mod_eq_of_lt low, Nat.shiftLeft_eq,
    Nat.mod_eq_of_lt placed]

theorem weightedBit_eq_false_of_le_lane {N : Nat} (B : BitVec N) {w : Weight} (h : N ≤ 4 * w.lane) :
    weightedBit B w = false := by
  rw [weightedBit_eq_getLsbD]
  exact BitVec.getLsbD_of_ge B _ (by omega)

/-! ## BCD_ENC -/

/-- A conversion that succeeds is answered as RESULT (40_bcd_encoder.md R51). -/
theorem exec_bcdEnc_of_ok {v : Value} {s : State} {B : BitVec s.config.bcdWidth.bits}
    (ok : bcd s.config.bcdWidth.bits v = .ok B) :
    exec (.bcdEnc v) s =
      .next { s with responses := s.responses ++ [Response.toWord { status := .ok, value := B.setWidth 32 }] } := by
  rw [exec, execBcdEnc, ok]
  rfl

/-- An overflow is answered as NUMBER_TOO_LARGE with the value (40_bcd_encoder.md R51). -/
theorem exec_bcdEnc_of_overflow {v u : Value} {s : State} (overflow : bcd s.config.bcdWidth.bits v = .overflow u) :
    exec (.bcdEnc v) s = .next { s with responses := s.responses ++ [Response.toWord
      { status := .numberTooLarge, errField := .none, value := u }] } := by
  rw [exec, execBcdEnc, overflow]
  rfl

end Sys2Proof.Machine
end

section
/-! The statements of the BCD Encoder (40_bcd_encoder.md). -/

namespace Sys2Proof

open Sys2Proof.Machine

/-- Settles O12: the encoder's closed form, with its digits read lane by lane and bit by bit. -/
theorem bcdOverflowsExactlyAtCapacity : Obligations.BcdOverflowsExactlyAtCapacity := by
  refine ⟨fun n v => ⟨bcd_eq_overflow_of_le, fun fit => ?_⟩, by decide, exists_overflow⟩
  obtain ⟨B, ok⟩ := exists_bcd_eq_ok fit
  obtain ⟨-, hB⟩ := bcd_eq_ok_iff.1 ok
  exact ⟨B, ok, fun k _ => lane_eq_decDigit hB fit k, fun i => getLsbD_eq_false_of_digits_length_le hB⟩

/-- Settles O13: zero fits, and its packed digits are 0. -/
theorem bcdOfZeroIsZero : Obligations.BcdOfZeroIsZero := fun n =>
  bcd_eq_ok_iff.2 ⟨Nat.pow_pos (by decide), by simp⟩

/-- Settles O14: the lanes are the digits, and the digits at their weights add up to the number. -/
theorem bcdDecodesBack : Obligations.BcdDecodesBack := fun _ _ fit => by
  obtain ⟨B, ok⟩ := exists_bcd_eq_ok fit
  exact ⟨B, ok, sum_lane_eq (bcd_eq_ok_iff.1 ok).2 fit⟩

/-- Settles O15: each lane is a digit and the sum of its own four bits. -/
theorem bcdLanesHoldDecimalDigits : Obligations.BcdLanesHoldDecimalDigits := by
  intro n v B ok
  obtain ⟨fit, hB⟩ := bcd_eq_ok_iff.1 ok
  have digit := lane_eq_decDigit hB fit
  refine ⟨fun k _ => ⟨digit k, digit k ▸ decDigit_le _ k⟩, ?_⟩
  simp only [sum_bits_eq_lane_mul, sum_lane_eq hB fit]

/-- Settles O16: a weight's place is below N exactly where its lane exists. -/
theorem weightedBitReadsOneBit : Obligations.WeightedBitReadsOneBit := by
  refine ⟨fun n B w => ?_, by decide⟩
  have width := four_mul_digits n
  exact ⟨fun h => ⟨mask_toNat (by omega), weightedBit_eq_getLsbD B w⟩,
    fun h => weightedBit_eq_false_of_le_lane B (by omega)⟩

/-- Settles O17: RESULT is the conversion zero-extended, so its lanes above the capacity are 0, as the digits are. -/
theorem bcdEncAnswersDigitsOrNumberTooLarge : Obligations.BcdEncAnswersDigitsOrNumberTooLarge := by
  refine fun v s => ⟨fun fit => ?_, fun h => ?_⟩
  · obtain ⟨B, ok⟩ := exists_bcd_eq_ok fit
    have wide : s.config.bcdWidth.bits ≤ 32 := by cases s.config.bcdWidth <;> decide
    have hR : (B.setWidth 32).toNat = packedDigits s.config.bcdWidth.digits v.toNat :=
      (BitVec.toNat_setWidth_of_le wide).trans (bcd_eq_ok_iff.1 ok).2
    exact ⟨B.setWidth 32, fun k _ => lane_eq_decDigit hR fit k, exec_bcdEnc_of_ok ok⟩
  · exact exec_bcdEnc_of_overflow (bcd_eq_overflow_of_le h)

end Sys2Proof
end

section
/-! SUPPORT. What a frame vector that shows a timestamp holds: the symbols of the position table, its fixed positions,
and the weighted bits summed up to the fields (41_frame_encoder.md R72 to R84, R88). -/

namespace Sys2Proof.Machine

theorem sym_eq_high_iff (b : Bool) : sym b = .high ↔ b = true := by cases b <;> decide

theorem sym_ne_mark (b : Bool) : sym b ≠ .mark := by cases b <;> decide

theorem Symbol.eq_high_or_low {x : Symbol} (h : x ≠ .mark) : x = .high ∨ x = .low := by
  cases x with
  | low => exact .inr rfl
  | high => exact .inl rfl
  | mark => exact absurd rfl h

/-! ## The position table -/

theorem tableSymbol_eq_mark_iff (m h d y p : Nat) : tableSymbol m h d y p = .mark ↔ p ∈ markPositions := by
  unfold tableSymbol
  split_ifs with mark sign leap year
  · exact iff_of_true rfl mark
  · exact iff_of_false nofun mark
  · exact iff_of_false nofun mark
  · exact iff_of_false nofun mark
  · refine iff_of_false ?_ mark
    split
    case h_5 => exact nofun
    all_goals exact sym_ne_mark _

/-- Placeholders, the magnitude, the middle of the sign and the unused positions (41_frame_encoder.md R79 to R83). -/
def fixedLowPositions : List Nat := unusedPositions ++ [37, 40, 41, 42, 43, 56, 57, 58]

theorem tableSymbol_eq_low_of_fixed (m h d y : Nat) : ∀ p ∈ fixedLowPositions, tableSymbol m h d y p = .low := by
  intro p hp
  have outside : p ∉ markPositions ∧ ¬ (p = 36 ∨ p = 38) ∧ p ≠ 55 ∧ minutePositions.lookup p = none
      ∧ hourPositions.lookup p = none ∧ doyPositions.lookup p = none ∧ yearPositions.lookup p = none := by
    revert p
    decide
  obtain ⟨mark, sign, leap, minute, hour, doy, year⟩ := outside
  simp only [tableSymbol, mark, sign, leap, minute, hour, doy, year, if_false]

/-- The year is read by its last two digits everywhere but at the leap-year indicator (41_frame_encoder.md R77, R78). -/
theorem tableSymbol_congr_year (m h d : Nat) {y y' p : Nat} (hy : y % 100 = y' % 100) (hp : p ≠ 55) :
    tableSymbol m h d y p = tableSymbol m h d y' p := by
  simp only [tableSymbol, hp, hy, if_false]

/-! ## Weighted bits summed -/

/-- The sum of the weights that are in the decimal digits of x. -/
def weightSum (x : Nat) (weights : List Nat) : Nat := (weights.map fun w => if decWeight x w then w else 0).sum

theorem weightSum_append (x : Nat) (l l' : List Nat) : weightSum x (l ++ l') = weightSum x l + weightSum x l' := by
  simp [weightSum]

/-- The weights of the low k bits of a lane, highest first (40_bcd_encoder.md R54). -/
def laneWeights (lane : Nat) : Nat → List Nat
  | 0 => []
  | k + 1 => 2 ^ k * 10 ^ lane :: laneWeights lane k

/-- The low k bits of a decimal digit, each at its weight, add up to what they hold of the digit. -/
theorem weightSum_laneWeights (x : Nat) {lane k : Nat} (hlane : lane ≤ 2) (hk : k ≤ 4) :
    weightSum x (laneWeights lane k) = decDigit x lane % 2 ^ k * 10 ^ lane := by
  induction k with
  | zero => simp [laneWeights, weightSum, Nat.mod_one]
  | succ k ih =>
    have bit : decWeight x (2 ^ k * 10 ^ lane) = (decDigit x lane).testBit k :=
      decWeight_value x ⟨lane, ⟨k, hk⟩⟩ hlane
    have top_bit : weightSum x (laneWeights lane (k + 1))
        = ((decDigit x lane).testBit k).toNat * (2 ^ k * 10 ^ lane) + weightSum x (laneWeights lane k) := by
      simp only [laneWeights, weightSum, List.map_cons, List.sum_cons, bit]
      cases (decDigit x lane).testBit k <;> simp
    rw [top_bit, ih (by omega), Nat.toNat_testBit, Nat.mod_pow_succ]
    ring

theorem weightSum_minute {x : Nat} (hx : x ≤ 59) : weightSum x (minutePositions.map Prod.snd) = x := by
  have lanes : minutePositions.map Prod.snd = laneWeights 1 3 ++ laneWeights 0 4 := by decide
  rw [lanes, weightSum_append, weightSum_laneWeights x (by decide) (by decide),
    weightSum_laneWeights x (by decide) (by decide), decDigit, decDigit]
  omega

theorem weightSum_hour {x : Nat} (hx : x ≤ 23) : weightSum x (hourPositions.map Prod.snd) = x := by
  have lanes : hourPositions.map Prod.snd = laneWeights 1 2 ++ laneWeights 0 4 := by decide
  rw [lanes, weightSum_append, weightSum_laneWeights x (by decide) (by decide),
    weightSum_laneWeights x (by decide) (by decide), decDigit, decDigit]
  omega

theorem weightSum_doy {x : Nat} (hx : x ≤ 366) : weightSum x (doyPositions.map Prod.snd) = x := by
  have lanes : doyPositions.map Prod.snd = laneWeights 2 2 ++ laneWeights 1 4 ++ laneWeights 0 4 := by decide
  rw [lanes, weightSum_append, weightSum_append, weightSum_laneWeights x (by decide) (by decide),
    weightSum_laneWeights x (by decide) (by decide), weightSum_laneWeights x (by decide) (by decide), decDigit,
    decDigit, decDigit]
  omega

theorem weightSum_year {x : Nat} (hx : x < 100) : weightSum x (yearPositions.map Prod.snd) = x := by
  have lanes : yearPositions.map Prod.snd = laneWeights 1 4 ++ laneWeights 0 4 := by decide
  rw [lanes, weightSum_append, weightSum_laneWeights x (by decide) (by decide),
    weightSum_laneWeights x (by decide) (by decide), decDigit, decDigit]
  omega

/-! ## A vector that shows a timestamp -/

section Shown

variable {v : FrameVec} {m h : BitVec 8} {d y : BitVec 16}

theorem ShowsTimestamp.mark_iff (shows : ShowsTimestamp v m h d y) {p : Nat} (hp : p < 60) :
    symbolAt v p = some .mark ↔ p ∈ markPositions := by
  rw [shows p hp, Option.some.injEq, tableSymbol_eq_mark_iff]

theorem ShowsTimestamp.low_of_fixed (shows : ShowsTimestamp v m h d y) {p : Nat} (hp : p ∈ fixedLowPositions) :
    symbolAt v p = some .low := by
  have h60 : ∀ p ∈ fixedLowPositions, p < 60 := by decide
  rw [shows p (h60 p hp), tableSymbol_eq_low_of_fixed _ _ _ _ p hp]

theorem ShowsTimestamp.fixedPositions (shows : ShowsTimestamp v m h d y) : FixedPositions v where
  sign := ⟨shows 36 (by decide), shows.low_of_fixed (by decide), shows 38 (by decide)⟩
  magnitude := fun p hp => shows.low_of_fixed (by revert p; decide)
  leapSecond := shows.low_of_fixed (by decide)
  dst := ⟨shows.low_of_fixed (by decide), shows.low_of_fixed (by decide)⟩
  unused := fun p hp => shows.low_of_fixed (List.mem_append_left _ hp)
  marks := fun p hp => shows.mark_iff hp
  sevenMarks := by
    have marks : (List.range 60).filter (fun p => symbolAt v p = some .mark)
        = (List.range 60).filter (fun p => p ∈ markPositions) :=
      List.filter_congr fun p hp => decide_eq_decide.2 (shows.mark_iff (List.mem_range.1 hp))
    rw [marks]
    decide
  others := fun p hp hmark => by
    have ne_mark := mt (tableSymbol_eq_mark_iff m.toNat h.toNat d.toNat y.toNat p).1 hmark
    simpa only [shows p hp, Option.some.injEq] using Symbol.eq_high_or_low ne_mark

theorem ShowsTimestamp.leapIndicator (shows : ShowsTimestamp v m h d y) :
    symbolAt v 55 = some (if Gregorian y.toNat then .high else .low) :=
  shows 55 (by decide)

theorem ShowsTimestamp.unpackFrame (shows : ShowsTimestamp v m h d y) :
    unpackFrame v = some ((List.range 60).map (tableSymbol m.toNat h.toNat d.toNat y.toNat)) :=
  mapM_eq_some_map fun p hp => shows p (List.mem_range.1 hp)

/-- A field whose positions show the weights of a number sums up the weights in that number's digits. -/
theorem fieldSum_eq_weightSum {table : List (Nat × Nat)} {x : Nat}
    (shown : ∀ pw ∈ table, symbolAt v pw.1 = some (sym (decWeight x pw.2))) :
    fieldSum v table = weightSum x (table.map Prod.snd) := by
  rw [fieldSum, weightSum, List.map_map]
  refine congrArg List.sum (List.map_congr_left fun pw hpw => ?_)
  simp only [shown pw hpw, Option.some.injEq, sym_eq_high_iff, Function.comp_apply]

theorem ShowsTimestamp.fieldSum_minute (shows : ShowsTimestamp v m h d y) (range : m.toNat ≤ 59) :
    fieldSum v minutePositions = m.toNat := by
  rw [fieldSum_eq_weightSum (x := m.toNat) fun pw hpw => ?shown, weightSum_minute range]
  fin_cases hpw <;> exact shows _ (by decide)

theorem ShowsTimestamp.fieldSum_hour (shows : ShowsTimestamp v m h d y) (range : h.toNat ≤ 23) :
    fieldSum v hourPositions = h.toNat := by
  rw [fieldSum_eq_weightSum (x := h.toNat) fun pw hpw => ?shown, weightSum_hour range]
  fin_cases hpw <;> exact shows _ (by decide)

theorem ShowsTimestamp.fieldSum_doy (shows : ShowsTimestamp v m h d y) (range : d.toNat ≤ 366) :
    fieldSum v doyPositions = d.toNat := by
  rw [fieldSum_eq_weightSum (x := d.toNat) fun pw hpw => ?shown, weightSum_doy range]
  fin_cases hpw <;> exact shows _ (by decide)

theorem ShowsTimestamp.fieldSum_year (shows : ShowsTimestamp v m h d y) :
    fieldSum v yearPositions = y.toNat % 100 := by
  rw [fieldSum_eq_weightSum (x := y.toNat % 100) fun pw hpw => ?shown, weightSum_year (Nat.mod_lt _ (by decide))]
  fin_cases hpw <;> exact shows _ (by decide)

/-- Two vectors that show timestamps of years with the same two digits, and else alike, differ at most at the leap-year
indicator. -/
theorem ShowsTimestamp.symbolAt_congr_year {v' : FrameVec} {y' : BitVec 16} (shows : ShowsTimestamp v m h d y)
    (shows' : ShowsTimestamp v' m h d y') (hy : y.toNat % 100 = y'.toNat % 100) {p : Nat} (hp : p < 60) (h55 : p ≠ 55) :
    symbolAt v p = symbolAt v' p := by
  rw [shows p hp, shows' p hp, tableSymbol_congr_year _ _ _ hy h55]

end Shown

/-- A FRAME_ENC that succeeds keeps a frame that shows its operands (41_frame_encoder.md R86). -/
theorem FrameEncSucceeds.shows {m h : BitVec 8} {d y : BitVec 16} {s t : State} (ok : FrameEncSucceeds m h d y s t) :
    ShowsTimestamp t.frameReg m h d y := by
  obtain ⟨-, fit, frame⟩ := ok.frameReg_eq
  rw [frame]
  exact showsTimestamp_of_fieldsFit fit

theorem weightedBit_zero (N : Nat) (w : Weight) : weightedBit (0 : BitVec N) w = false := by
  rw [weightedBit_eq_getLsbD]
  exact BitVec.getLsbD_zero

end Sys2Proof.Machine
end

section
/-! The statements of 41_frame_encoder.md R77 to R84 and R88 about every successful frame. -/

namespace Sys2Proof

open Sys2Proof.Machine

/-- Settles O25: the frame shows its timestamp, so the weights of each field are those in the field's decimal
digits, which add up to it. -/
theorem successfulFramesDecodeToTheirFields : Obligations.SuccessfulFramesDecodeToTheirFields := by
  unfold Obligations.SuccessfulFramesDecodeToTheirFields
  intro m h d y s t ok
  obtain ⟨⟨minute, hour, -, doy⟩, -, -⟩ := ok.frameReg_eq
  have shows := ok.shows
  exact ⟨⟨_, shows.unpackFrame, by simp⟩, shows.fixedPositions, shows.fieldSum_minute minute, shows.fieldSum_hour hour,
    shows.fieldSum_doy doy, shows.fieldSum_year⟩

/-- Settles O23: position 55 of the table is the rule on the full year. -/
theorem leapYearIndicatorFollowsGregorianRule : Obligations.LeapYearIndicatorFollowsGregorianRule := by
  unfold Obligations.LeapYearIndicatorFollowsGregorianRule
  exact ⟨fun m h d y s t ok => ok.shows.leapIndicator, by decide⟩

/-- Settles O24: the fixed positions are those of the table, and 0 has no bit set. -/
theorem successfulFramesHaveFixedPositions : Obligations.SuccessfulFramesHaveFixedPositions := by
  unfold Obligations.SuccessfulFramesHaveFixedPositions
  exact ⟨fun m h d y s t ok => ok.shows.fixedPositions, fun n w => weightedBit_zero n.bits w⟩

/-- Settles O26: the table reads the year by its two digits at every position but 55. -/
theorem yearsAlikeDifferOnlyInLeapIndicator : Obligations.YearsAlikeDifferOnlyInLeapIndicator := by
  unfold Obligations.YearsAlikeDifferOnlyInLeapIndicator
  intro m h d y y' s t s' t' ok ok' hy p hp h55
  exact ok.shows.symbolAt_congr_year ok'.shows hy hp h55

end Sys2Proof
end

section
/-! SUPPORT. How FRAME_ENC answers a range error and an overflow, and the sequence of states that emits a frame
(41_frame_encoder.md R70, R76, R85 to R87). -/

namespace Sys2Proof.Machine

/-- The emission from state p on, given enough states to reach state 59 (41_frame_encoder.md R70). -/
theorem emitFrom_eq_map_range' (v : FrameVec) {fuel p : Nat} (hp : p < 60) (enough : 60 ≤ p + fuel) :
    emitFrom v fuel p = (List.range' p (60 - p)).map (symbolAt v) := by
  induction fuel generalizing p with
  | zero => omega
  | succ fuel ih =>
    by_cases last : p = 59
    · subst last
      rfl
    · have next : nextPosition p = some (p + 1) := if_pos (by omega)
      have left : 60 - p = 60 - (p + 1) + 1 := by omega
      rw [emitFrom, next, left, List.range'_succ, List.map_cons, ← ih (by omega) (by omega)]

/-- In range and within capacity, the frame kept and answered is the timestamp's (41_frame_encoder.md R86). -/
theorem exec_frameEnc_keeps_timestampFrame {m h : BitVec 8} {d y : BitVec 16} {s : State} {V : FrameVec}
    (range : InRange m h d) (fit : FieldsFit s.config.bcdWidth m h d y)
    (frame : V = timestampFrame s.config.bcdWidth m h d y) :
    exec (.frameEnc m h d y) s = .next { s with
      frameReg := V, frameValid := true, frameStale := false,
      responses := s.responses ++ [Response.toWord { status := .ok, frame := V }] } := by
  obtain ⟨V', hexec⟩ := exec_frameEnc_of_fieldsFit range fit
  have ok : FrameEncSucceeds m h d y s _ := ⟨hexec, rfl⟩
  obtain ⟨-, -, frame'⟩ : _ ∧ _ ∧ V' = timestampFrame s.config.bcdWidth m h d y := ok.frameReg_eq
  rw [hexec, frame, frame']

/-- A field out of range is reported before any conversion (41_frame_encoder.md R76, R87). -/
theorem exec_frameEnc_of_rangeError {m h : BitVec 8} {d : BitVec 16} (y : BitVec 16) (s : State) {f : ErrField}
    {v : Value} (he : rangeError m h d = some (.fieldOutOfRange f v)) :
    exec (.frameEnc m h d y) s = .next { s with
      frameStale := true,
      responses := s.responses ++ [Response.toWord { status := .fieldOutOfRange, errField := f, value := v }] } := by
  simp only [exec, execFrameEnc, encodeFrame, he]
  rfl

/-- In range, FRAME_ENC answers a frame or an overflow (41_frame_encoder.md R76). -/
theorem exec_frameEnc_status_of_inRange {m h : BitVec 8} {d : BitVec 16} (y : BitVec 16) (s : State)
    (range : InRange m h d) : ∃ t r, exec (.frameEnc m h d y) s = .next t ∧ t.responses = s.responses ++ [r]
      ∧ (respStatus r = 0#3 ∨ respStatus r = 1#3) := by
  by_cases fit : FieldsFit s.config.bcdWidth m h d y
  · exact ⟨_, _, exec_frameEnc_keeps_timestampFrame range fit rfl, rfl, .inl (respStatus_toWord _)⟩
  · obtain ⟨f, v, he⟩ := convertFields_of_not_fieldsFit fit
    exact ⟨_, _, exec_frameEnc_of_overflow range he, rfl, .inr (respStatus_toWord _)⟩

theorem ofNat_twoDigitYear (y : BitVec 16) : BitVec.ofNat 32 (y.toNat % 100) = twoDigitYear y := by
  rw [← twoDigitYear_toNat, BitVec.ofNat_toNat, BitVec.setWidth_eq]

end Sys2Proof.Machine
end

section
/-! The statements of 41_frame_encoder.md R70 to R77, R85 and R86 about the sequence, the table and the checks. -/

namespace Sys2Proof

open Sys2Proof.Machine

/-- Settles O11: the emission from state 0, by induction on the number of states it is let run. -/
theorem sequenceEmitsSixtySymbolsInOrder : Obligations.SequenceEmitsSixtySymbolsInOrder := by
  unfold Obligations.SequenceEmitsSixtySymbolsInOrder
  intro v more
  rw [emitFrom_eq_map_range' v (by decide) (by omega), List.range_eq_range']

/-- Settles O19: the frame kept is the timestamp's, whose positions hold the codes of the table. -/
theorem frameEncKeepsAndAnswersTheTableFrame : Obligations.FrameEncKeepsAndAnswersTheTableFrame := by
  unfold Obligations.FrameEncKeepsAndAnswersTheTableFrame
  intro m h d y s range fit
  exact ⟨_, fun p hp => extractLsb'_frame fit hp, exec_frameEnc_keeps_timestampFrame range fit rfl⟩

/-- Settles O21: the range check runs through MINUTE, HOUR and DOY, and in range only a conversion can fail. -/
theorem frameEncChecksRangesInOrder : Obligations.FrameEncChecksRangesInOrder := by
  unfold Obligations.FrameEncChecksRangesInOrder
  intro m h d y s
  simp only [BitVec.ofNat_toNat]
  refine ⟨fun minute => ?_, fun minute hour => ?_, fun minute hour doy => ?_, fun range => ?_⟩
  · exact exec_frameEnc_of_rangeError y s (by rw [rangeError, if_pos minute])
  · exact exec_frameEnc_of_rangeError y s (by rw [rangeError, if_neg (by omega), if_pos hour])
  · exact exec_frameEnc_of_rangeError y s
      (by rw [rangeError, if_neg (by omega), if_neg (by omega), if_pos (by omega)])
  · obtain ⟨t, r, hexec, hr, status⟩ := exec_frameEnc_status_of_inRange y s range
    refine ⟨t, r, hexec, hr, ?_⟩
    obtain ok | overflow := status
    · simp [ok]
    · simp [overflow]

/-- Settles O22: the conversions in closed form, each overflow with the number it was given. -/
theorem frameEncReportsFirstOverflow : Obligations.FrameEncReportsFirstOverflow := by
  unfold Obligations.FrameEncReportsFirstOverflow
  intro m h d y s range
  simp only [BitVec.ofNat_toNat, ofNat_twoDigitYear]
  refine ⟨fun minute => ?_, fun minute hour => ?_, fun minute hour doy => ?_, fun minute hour doy year => ?_,
    fun wide => fieldsFit_of_twelve_le y wide range⟩
  · exact exec_frameEnc_of_overflow range (by rw [convertFields_eq, if_pos minute])
  · exact exec_frameEnc_of_overflow range (by rw [convertFields_eq, if_neg (not_not.2 minute), if_pos hour])
  · exact exec_frameEnc_of_overflow range
      (by rw [convertFields_eq, if_neg (not_not.2 minute), if_neg (not_not.2 hour), if_pos doy])
  · exact exec_frameEnc_of_overflow range
      (by rw [convertFields_eq, if_neg (not_not.2 minute), if_neg (not_not.2 hour), if_neg (not_not.2 doy),
        if_pos year])

end Sys2Proof
end

section
/-! SUPPORT. What a failed FRAME_ENC leaves, and what FRAME_READ then answers (41_frame_encoder.md R87, 42_frame_read.md
R100). -/

namespace Sys2Proof.Machine

/-- With FRAME_VALID = 1 FRAME_READ answers the kept frame and its flag (42_frame_read.md R100). -/
theorem exec_frameRead_of_valid {s : State} (valid : s.frameValid = true) :
    exec .frameRead s = .next { s with responses := s.responses ++
      [Response.toWord { status := .ok, stale := s.frameStale, frame := s.frameReg }] } := by
  rw [exec, execFrameRead_eq, frameReadResponse, if_pos valid]
  rfl

theorem encodeFrame_ne_noFrame (n : BcdWidth) (m h : BitVec 8) (d y : BitVec 16) :
    encodeFrame n.bits m h d y ≠ .error .noFrame := by
  intro noFrame
  obtain ⟨-, -, hc⟩ | ⟨-, hc⟩ | ⟨-, -, hc⟩ | ⟨-, -, -, hc⟩ | ⟨-, -, hc⟩ | ⟨-, -, -, hc⟩ | ⟨-, -, -, -, hc⟩ |
    ⟨-, -, -, -, -, hc⟩ := encodeFrame_cases n m h d y <;> cases hc.symm.trans noFrame

/-- A word with OP = 01 keeps a frame, or fails with an error of FRAME_ENC or as illegal (41_frame_encoder.md R87). -/
theorem serveWord_of_op_one {w : ReqWord} (op : w.toNat % 4 = 1) (s : State) :
    (∃ v, serveWord w s = .next ((s.keepFrame v).respond { status := .ok, frame := v }))
    ∨ ∃ e, e ≠ .noFrame ∧ serveWord w s = .next (s.failFrame e) := by
  rw [serveWord, decode_of_op_one op]
  split_ifs
  · exact .inr ⟨.illegalRequest, nofun, rfl⟩
  · obtain ⟨v, -, hv⟩ | ⟨e, he, hnext⟩ := execFrameEnc_cases _ _ _ _ s
    · exact .inl ⟨v, hv⟩
    · exact .inr ⟨e, fun noFrame => encodeFrame_ne_noFrame _ _ _ _ _ (noFrame ▸ he), hnext⟩

theorem RequestError.status_code_of_ne_noFrame {e : RequestError} (h : e ≠ .noFrame) :
    e.response.status.code = 1#3 ∨ e.response.status.code = 2#3 ∨ e.response.status.code = 3#3 := by
  cases e with
  | numberTooLarge f v => exact .inl rfl
  | fieldOutOfRange f v => exact .inr (.inl rfl)
  | illegalRequest => exact .inr (.inr rfl)
  | noFrame => exact absurd rfl h

/-- A served word with OP = 01 that is not answered OK has failed, with its error's response. -/
theorem Serves.failed {s t : State} {w : ReqWord} {r : RespWord} (h : Serves s w t r) (op : w.toNat % 4 = 1)
    (not_ok : respStatus r ≠ 0#3) : ∃ rest e, s.inputs = .request w :: rest ∧ e ≠ .noFrame
      ∧ r = e.response.toWord ∧ t = (s.withInputs rest).failFrame e := by
  obtain ⟨rest, hi, hw⟩ := h.exists_serveWord
  obtain ⟨-, -, hr⟩ := h
  obtain ⟨v, hv⟩ | ⟨e, he, hnext⟩ := serveWord_of_op_one op (s.withInputs rest)
  · cases hv.symm.trans hw
    obtain rfl : _ = r := by simpa using hr
    exact absurd (respStatus_toWord _) not_ok
  · cases hnext.symm.trans hw
    exact ⟨rest, e, hi, he, by simpa using hr.symm, rfl⟩

theorem FrameEncSucceeds.frameValid {m h : BitVec 8} {d y : BitVec 16} {s t : State}
    (ok : FrameEncSucceeds m h d y s t) : t.frameValid = true := by
  obtain ⟨hexec, stale⟩ := ok
  obtain ⟨v, -, hnext⟩ | ⟨e, -, hnext⟩ := execFrameEnc_cases m h d y s <;> cases hnext.symm.trans hexec
  · rfl
  · simp at stale

/-- A FRAME_ENC that leaves FRAME_STALE = 1 has failed. -/
theorem exec_frameEnc_failed {m h : BitVec 8} {d y : BitVec 16} {s t : State}
    (hexec : exec (.frameEnc m h d y) s = .next t) (stale : t.frameStale = true) : ∃ e, t = s.failFrame e := by
  obtain ⟨v, -, hnext⟩ | ⟨e, -, hnext⟩ := execFrameEnc_cases m h d y s <;> cases hnext.symm.trans hexec
  · simp at stale
  · exact ⟨e, rfl⟩

end Sys2Proof.Machine
end

section
/-! The statements of 41_frame_encoder.md R87 and 42_frame_read.md R100 about a failed FRAME_ENC. -/

namespace Sys2Proof

open Sys2Proof.Machine

/-- Settles O27: a failure writes FRAME_STALE and its response only, so the frame kept before is still read. -/
theorem failedFrameEncOnlyMarksStale : Obligations.FailedFrameEncOnlyMarksStale := by
  unfold Obligations.FailedFrameEncOnlyMarksStale
  intro s t w r h op not_ok
  obtain ⟨rest, e, hi, he, rfl, rfl⟩ := h.failed op not_ok
  refine ⟨by rw [hi]; rfl, ?_, ?_, fun valid => exec_frameRead_of_valid valid⟩
  · rw [respStatus_toWord]
    exact RequestError.status_code_of_ne_noFrame he
  · rw [respFrame_toWord]
    exact e.response_frame_stale.1

/-- Settles O32: the failure keeps FRAME_REG and FRAME_VALID, which the success set. -/
theorem failedMinuteIsReadBackAsStale : Obligations.FailedMinuteIsReadBackAsStale := by
  unfold Obligations.FailedMinuteIsReadBackAsStale
  intro m h d y m' h' d' y' s t u ok hexec stale
  obtain ⟨e, rfl⟩ := exec_frameEnc_failed hexec stale
  have valid : (t.failFrame e).frameValid = true := ok.frameValid
  refine ⟨e.response.toWord, ?_⟩
  rw [exec_frameRead_of_valid valid, State.failFrame_responses, List.append_assoc]
  rfl

end Sys2Proof
end

section
/-! SUPPORT. FRAME_READ served among other requests, and that a FRAME_REG that is not valid is never observed
(42_frame_read.md R100, R101). -/

namespace Sys2Proof.Machine

/-- With FRAME_VALID = 0 FRAME_READ answers NO_FRAME (42_frame_read.md R100). -/
theorem exec_frameRead_of_invalid {s : State} (invalid : s.frameValid = false) :
    exec .frameRead s = .next (s.respond { status := .noFrame }) := by
  rw [exec, execFrameRead_eq, frameReadResponse, if_neg (by simp [invalid])]

/-! ## Requests one after the other -/

theorem step_of_encoded {s : State} {i : Instr} {rest : List Input} (h : s.inputs = .request (encode i) :: rest) :
    step s = exec i (s.withInputs rest) :=
  (step_of_request h).trans (serveWord_of_instr (decode_encode i) _)

theorem step_of_frameRead {s : State} {rest : List Input} (h : s.inputs = .request (encode .frameRead) :: rest) :
    step s = .next ((s.withInputs rest).respond (frameReadResponse s)) :=
  (step_of_encoded h).trans (execFrameRead_eq _)

/-- A run through BCD_ENC requests takes them off the port and adds their responses; nothing else changes. -/
theorem run_bcdEncs (values : List Value) (later : List Input) (s : State)
    (waiting : s.inputs = (values.map fun v => .request (encode (.bcdEnc v))) ++ later) :
    core.run values.length s = .next { s with
      inputs := later
      responses := s.responses ++ values.map fun v => (bcdEncResponse s.config.bcdWidth v).toWord } := by
  induction values generalizing s with
  | nil =>
    rw [List.map_nil, List.nil_append] at waiting
    simp only [List.length_nil, List.map_nil, List.append_nil, ← waiting]
    rfl
  | cons v values ih =>
    have first := (step_of_encoded waiting).trans (execBcdEnc_eq v _)
    rw [List.length_cons, run_succ_of_step (M := core) first, ih _ rfl]
    simp only [State.respond_responses, State.withInputs_responses, List.append_assoc]
    rfl

/-- FRAME_READ requests with only BCD_ENC requests between them have the same response (42_frame_read.md R100). -/
theorem run_frameRead_bcdEncs_frameRead (values : List Value) (s : State)
    (waiting : s.inputs = .request (encode .frameRead) ::
      ((values.map fun v => .request (encode (.bcdEnc v))) ++ [.request (encode .frameRead)])) :
    core.run (values.length + 2) s = .next { s with
      inputs := []
      responses := s.responses ++ [(frameReadResponse s).toWord]
        ++ (values.map fun v => (bcdEncResponse s.config.bcdWidth v).toWord) ++ [(frameReadResponse s).toWord] } := by
  have first := step_of_frameRead waiting
  have between := run_bcdEncs values [.request (encode .frameRead)] ((s.withInputs _).respond (frameReadResponse s)) rfl
  rw [run_succ_of_step (M := core) first, run_succ_of_run between, step_of_frameRead rfl]
  rfl

/-! ## A FRAME_REG that is not valid -/

/-- The state with another frame in FRAME_REG. -/
def State.withFrameReg (V : FrameVec) (s : State) : State := { s with frameReg := V }

@[simp] theorem State.withFrameReg_config (V : FrameVec) (s : State) : (s.withFrameReg V).config = s.config := rfl
@[simp] theorem State.withFrameReg_inputs (V : FrameVec) (s : State) : (s.withFrameReg V).inputs = s.inputs := rfl
@[simp] theorem State.withFrameReg_freeCount (V : FrameVec) (s : State) :
    (s.withFrameReg V).freeCount = s.freeCount := rfl
@[simp] theorem State.withFrameReg_tick (V : FrameVec) (s : State) :
    (s.withFrameReg V).tick = s.tick.withFrameReg V := rfl

/-- The two states differ at most in FRAME_REG, and there only while FRAME_VALID = 0. -/
inductive ObservedAlike : State → State → Prop where
  | same (s : State) : ObservedAlike s s
  | invalidFrame {s : State} (invalid : s.frameValid = false) (V : FrameVec) : ObservedAlike s (s.withFrameReg V)

/-- Both outcomes are next states, and these are observed alike. -/
def EndAlike (o o' : Host.Outcome State Fault Refusal) : Prop :=
  ∃ t u, o = .next t ∧ o' = .next u ∧ ObservedAlike t u

/-- Every reset gives FRAME_REG the same content. -/
theorem ObservedAlike.takeReset_eq {s s' : State} (h : ObservedAlike s s') : s.takeReset = s'.takeReset := by
  cases h <;> rfl

section InvalidFrame

variable {s : State} (invalid : s.frameValid = false) (V : FrameVec)
include invalid

theorem respond_alike_of_invalid (q : Response) : ObservedAlike (s.respond q) ((s.withFrameReg V).respond q) :=
  .invalidFrame (s := s.respond q) invalid V

theorem failFrame_alike_of_invalid (e : RequestError) :
    ObservedAlike (s.failFrame e) ((s.withFrameReg V).failFrame e) :=
  .invalidFrame (s := s.failFrame e) invalid V

theorem exec_alike_of_invalid (i : Instr) : EndAlike (exec i s) (exec i (s.withFrameReg V)) := by
  cases i with
  | bcdEnc v => exact ⟨_, _, execBcdEnc_eq v s, execBcdEnc_eq v _, respond_alike_of_invalid invalid V _⟩
  | frameEnc m h d y =>
    simp only [exec, execFrameEnc, State.withFrameReg_config]
    cases encodeFrame s.config.bcdWidth.bits m h d y with
    | ok v => exact ⟨_, _, rfl, rfl, .same _⟩
    | error e => exact ⟨_, _, rfl, rfl, failFrame_alike_of_invalid invalid V e⟩
  | frameRead =>
    exact ⟨_, _, exec_frameRead_of_invalid invalid, exec_frameRead_of_invalid (s := s.withFrameReg V) invalid,
      respond_alike_of_invalid invalid V _⟩

theorem answerIllegal_alike_of_invalid (r : Illegal) :
    ObservedAlike (s.answerIllegal r) ((s.withFrameReg V).answerIllegal r) := by
  unfold State.answerIllegal
  split
  · exact failFrame_alike_of_invalid invalid V _
  · exact respond_alike_of_invalid invalid V _

theorem serveWord_alike_of_invalid (w : ReqWord) : EndAlike (serveWord w s) (serveWord w (s.withFrameReg V)) := by
  unfold serveWord
  cases decode w with
  | instr i => exact exec_alike_of_invalid invalid V i
  | illegal r => exact ⟨_, _, rfl, rfl, answerIllegal_alike_of_invalid invalid V r⟩

theorem serveWordUnderReset_alike_of_invalid (w : ReqWord) :
    EndAlike (serveWordUnderReset w s) (serveWordUnderReset w (s.withFrameReg V)) := by
  obtain ⟨t, u, ht, hu, alike⟩ := serveWord_alike_of_invalid (s := s.tick) invalid V w
  simp only [serveWordUnderReset, State.withFrameReg_freeCount, State.withFrameReg_tick, ht, hu, alike.takeReset_eq]
  split <;> exact ⟨_, _, rfl, rfl, .same _⟩

theorem takeInput_alike_of_invalid (a : Input) : EndAlike (takeInput a s) (takeInput a (s.withFrameReg V)) := by
  cases a with
  | request w => exact serveWord_alike_of_invalid invalid V w
  | reset => exact ⟨_, _, rfl, rfl, .same _⟩
  | resetDuring w => exact serveWordUnderReset_alike_of_invalid invalid V w

theorem step_alike_of_invalid : EndAlike (step s) (step (s.withFrameReg V)) := by
  rw [step, step, State.withFrameReg_inputs]
  cases s.inputs with
  | nil => exact ⟨_, _, rfl, rfl, .invalidFrame invalid V⟩
  | cons a rest => exact takeInput_alike_of_invalid (s := s.withInputs rest) invalid V a

end InvalidFrame

theorem ObservedAlike.step {s s' : State} (h : ObservedAlike s s') : EndAlike (Machine.step s) (Machine.step s') := by
  cases h with
  | same =>
    obtain ⟨t, -, ht, -⟩ := step_advances s
    exact ⟨t, t, ht, ht, .same t⟩
  | invalidFrame invalid V => exact step_alike_of_invalid invalid V

theorem ObservedAlike.run {s s' : State} (h : ObservedAlike s s') (k : Nat) :
    EndAlike (core.run k s) (core.run k s') := by
  induction k with
  | zero => exact ⟨s, s', rfl, rfl, h⟩
  | succ k ih =>
    obtain ⟨t, u, ht, hu, alike⟩ := ih
    rw [run_succ_of_run ht, run_succ_of_run hu]
    exact alike.step

end Sys2Proof.Machine
end

section
/-! The statements of 42_frame_read.md R100 to R102 about FRAME_READ, and that the state after reset is safe. -/

namespace Sys2Proof

open Sys2Proof.Machine

/-- Settles O30: only FRAME_READ could tell the two states apart, and it answers NO_FRAME in both; a new frame or a
reset makes them equal. -/
theorem invalidFrameRegIsNeverObserved : Obligations.InvalidFrameRegIsNeverObserved := by
  unfold Obligations.InvalidFrameRegIsNeverObserved
  intro k s V invalid
  obtain ⟨t, u, ht, hu, alike⟩ := (ObservedAlike.invalidFrame invalid V).run k
  refine ⟨t, u, ht, hu, ?_⟩
  cases alike with
  | same => exact ⟨rfl, fun _ => rfl⟩
  | invalidFrame still_invalid V => exact ⟨rfl, fun valid => by simp [still_invalid] at valid⟩

/-- Settles O29: no error's response has a frame or STALE, and NO_FRAME records no field and no value. -/
theorem noFrameResponseIsOtherwiseZero : Obligations.NoFrameResponseIsOtherwiseZero := by
  unfold Obligations.NoFrameResponseIsOtherwiseZero
  intro s t w r h status
  obtain ⟨-, of_error, of_no_record, -⟩ := unnamedResponseFieldsAreZero s t w r h
  obtain ⟨frame, stale⟩ := of_error (by simp [status])
  obtain ⟨errField, value⟩ := of_no_record (.inr status)
  exact ⟨frame, stale, errField, value⟩

/-- Settles O31: the BCD_ENC requests between leave what FRAME_READ reads as it is. -/
theorem frameReadsAroundBcdEncAgree : Obligations.FrameReadsAroundBcdEncAgree := by
  unfold Obligations.FrameReadsAroundBcdEncAgree
  intro s values
  exact ⟨_, _, _, run_frameRead_bcdEncs_frameRead values _ rfl, rfl, List.length_map _⟩

/-- Settles O28: the two branches of FRAME_READ. -/
theorem frameReadAnswersFrameOrNoFrame : Obligations.FrameReadAnswersFrameOrNoFrame := fun _ =>
  ⟨exec_frameRead_of_valid, exec_frameRead_of_invalid⟩

/-- Settles O52: FRAME_VALID = 0 and no response. -/
theorem resetStateIsSafe : Obligations.ResetStateIsSafe where
  frame := nofun
  responses := nofun

end Sys2Proof
end

section
/-! SUPPORT. The response of every request word as a function of the state and the word, and which cause each error of
it stands for (60_exceptions.md R111 to R116). -/

namespace Sys2Proof.Machine

theorem Status.code_injective : Function.Injective Status.code := fun x y h =>
  Option.some.inj (by rw [← Status.ofCode_code x, h, Status.ofCode_code])

/-! ## The response of a request -/

/-- The response of FRAME_ENC: a function of N and the timestamp alone (41_frame_encoder.md R86, R87). -/
def frameEncResponse (n : BcdWidth) (m h : BitVec 8) (d y : BitVec 16) : Response :=
  match encodeFrame n.bits m h d y with
  | .ok v => { status := .ok, frame := v }
  | .error e => e.response

theorem frameEncResponse_of_ok {n : BcdWidth} {m h : BitVec 8} {d y : BitVec 16} {v : FrameVec}
    (ok : encodeFrame n.bits m h d y = .ok v) : frameEncResponse n m h d y = { status := .ok, frame := v } := by
  rw [frameEncResponse, ok]

theorem frameEncResponse_of_error {n : BcdWidth} {m h : BitVec 8} {d y : BitVec 16} {e : RequestError}
    (error : encodeFrame n.bits m h d y = .error e) : frameEncResponse n m h d y = e.response := by
  rw [frameEncResponse, error]

/-- The response of a request in a state. -/
def instrResponse (s : State) : Instr → Response
  | .bcdEnc v => bcdEncResponse s.config.bcdWidth v
  | .frameEnc m h d y => frameEncResponse s.config.bcdWidth m h d y
  | .frameRead => frameReadResponse s

theorem exec_response (i : Instr) (s : State) :
    ∃ t, exec i s = .next t ∧ t.responses = s.responses ++ [(instrResponse s i).toWord] := by
  cases i with
  | bcdEnc v => exact ⟨_, execBcdEnc_eq v s, rfl⟩
  | frameEnc m h d y =>
    obtain ⟨v, ok, hv⟩ | ⟨e, error, he⟩ := execFrameEnc_cases m h d y s
    · exact ⟨_, hv, by rw [instrResponse, frameEncResponse_of_ok ok]; rfl⟩
    · exact ⟨_, he, by rw [instrResponse, frameEncResponse_of_error error]; rfl⟩
  | frameRead => exact ⟨_, execFrameRead_eq s, rfl⟩

/-- The response of a request word in a state: of its request, or ILLEGAL_REQUEST (30_encoding.md R36). -/
def wordResponse (s : State) (w : ReqWord) : Response :=
  match decode w with
  | .instr i => instrResponse s i
  | .illegal _ => { status := .illegalRequest }

theorem wordResponse_of_instr {w : ReqWord} {i : Instr} (h : decode w = .instr i) (s : State) :
    wordResponse s w = instrResponse s i := by
  rw [wordResponse, h]

theorem wordResponse_of_illegal {w : ReqWord} {c : Illegal} (h : decode w = .illegal c) (s : State) :
    wordResponse s w = { status := .illegalRequest } := by
  rw [wordResponse, h]

/-- No response depends on the inputs still to come. -/
theorem wordResponse_withInputs (l : List Input) (s : State) (w : ReqWord) :
    wordResponse (s.withInputs l) w = wordResponse s w := rfl

theorem Serves.eq_wordResponse {s t : State} {w : ReqWord} {r : RespWord} (h : Serves s w t r) :
    r = (wordResponse s w).toWord := by
  obtain ⟨rest, -, hw⟩ := h.exists_serveWord
  obtain ⟨-, -, hr⟩ := h
  rw [← wordResponse_withInputs rest]
  obtain ⟨i, hd, hi⟩ | ⟨c, hd, hc⟩ := serveWord_cases w (s.withInputs rest)
  · obtain ⟨u, hu, responses⟩ := exec_response i (s.withInputs rest)
    cases (hi.trans hu).symm.trans hw
    simpa [wordResponse_of_instr hd, hr] using responses
  · cases hc.symm.trans hw
    simpa [wordResponse_of_illegal hd, State.answerIllegal_eq, RequestError.response] using hr.symm

/-! ## The causes -/

/-- The words of ILLEGAL_REQUEST are those that decode to no request (30_encoding.md R36, 60_exceptions.md R113). -/
theorem malformedWord_iff (w : ReqWord) : MalformedWord w ↔ ∃ c, decode w = .illegal c := by
  have op : w.toNat % 4 = 0 ∨ w.toNat % 4 = 1 ∨ w.toNat % 4 = 2 ∨ w.toNat % 4 = 3 := by omega
  unfold MalformedWord
  obtain op | op | op | op := op
  · rw [decode_of_op_zero op]
    split_ifs <;> simp_all
  · rw [decode_of_op_one op]
    split_ifs <;> simp_all
  · rw [decode_of_op_two op]
    split_ifs <;> simp_all
  · rw [decode_of_op_three op]
    simp [op]

/-- The first field out of its range, with its value (41_frame_encoder.md R76). -/
inductive FirstOutOfRange (m h : BitVec 8) (d : BitVec 16) : ErrField → Value → Prop where
  | minute (bad : 59 < m.toNat) : FirstOutOfRange m h d .minute (m.setWidth 32)
  | hour (minute : m.toNat ≤ 59) (bad : 23 < h.toNat) : FirstOutOfRange m h d .hour (h.setWidth 32)
  | doy (minute : m.toNat ≤ 59) (hour : h.toNat ≤ 23) (bad : d.toNat = 0 ∨ 366 < d.toNat) :
    FirstOutOfRange m h d .doy (d.setWidth 32)

/-- The first of the four numbers that does not fit, with the number (41_frame_encoder.md R85). -/
inductive FirstOverflow (n : BcdWidth) (m h : BitVec 8) (d y : BitVec 16) : ErrField → Value → Prop where
  | minute (large : ¬ Fits n m.toNat) : FirstOverflow n m h d y .minute (m.setWidth 32)
  | hour (minute : Fits n m.toNat) (large : ¬ Fits n h.toNat) : FirstOverflow n m h d y .hour (h.setWidth 32)
  | doy (minute : Fits n m.toNat) (hour : Fits n h.toNat) (large : ¬ Fits n d.toNat) :
    FirstOverflow n m h d y .doy (d.setWidth 32)
  | year (minute : Fits n m.toNat) (hour : Fits n h.toNat) (doy : Fits n d.toNat)
    (large : ¬ Fits n (y.toNat % 100)) : FirstOverflow n m h d y .year (twoDigitYear y)

section Fields

variable {n : BcdWidth} {m h : BitVec 8} {d y : BitVec 16} {f : ErrField} {v : Value}

theorem FirstOutOfRange.not_inRange (first : FirstOutOfRange m h d f v) : ¬ InRange m h d := by
  cases first <;> unfold InRange <;> omega

theorem FirstOverflow.not_fieldsFit (first : FirstOverflow n m h d y f v) : ¬ FieldsFit n m h d y := by
  rintro ⟨minute, hour, doy, year⟩
  cases first <;> contradiction

theorem FirstOutOfRange.record (first : FirstOutOfRange m h d f v) :
    (f.code = 1#3 ∧ 59 < m.toNat ∧ v.toNat = m.toNat)
    ∨ (f.code = 2#3 ∧ 23 < h.toNat ∧ v.toNat = h.toNat)
    ∨ (f.code = 3#3 ∧ (d.toNat = 0 ∨ 366 < d.toNat) ∧ v.toNat = d.toNat) := by
  cases first with
  | minute bad => exact .inl ⟨rfl, bad, setWidth_byte_toNat m⟩
  | hour _ bad => exact .inr (.inl ⟨rfl, bad, setWidth_byte_toNat h⟩)
  | doy _ _ bad => exact .inr (.inr ⟨rfl, bad, setWidth_half_toNat d⟩)

theorem FirstOverflow.record (first : FirstOverflow n m h d y f v) :
    ∃ fv ∈ [(1#3, m.toNat), (2#3, h.toNat), (3#3, d.toNat), (4#3, y.toNat % 100)],
      f.code = fv.1 ∧ v.toNat = fv.2 ∧ ¬ Fits n fv.2 := by
  cases first with
  | minute large => exact ⟨(1#3, m.toNat), by simp, rfl, setWidth_byte_toNat m, large⟩
  | hour _ large => exact ⟨(2#3, h.toNat), by simp, rfl, setWidth_byte_toNat h, large⟩
  | doy _ _ large => exact ⟨(3#3, d.toNat), by simp, rfl, setWidth_half_toNat d, large⟩
  | year _ _ _ large => exact ⟨(4#3, y.toNat % 100), by simp, rfl, twoDigitYear_toNat y, large⟩

end Fields

/-- What FRAME_ENC answers: a frame, the first field out of range, or in range the first overflow (60_exceptions.md
R116). -/
theorem frameEncResponse_cases (n : BcdWidth) (m h : BitVec 8) (d y : BitVec 16) :
    (InRange m h d ∧ FieldsFit n m h d y ∧ ∃ V, frameEncResponse n m h d y = { status := .ok, frame := V })
    ∨ (∃ f v, FirstOutOfRange m h d f v ∧ frameEncResponse n m h d y = (RequestError.fieldOutOfRange f v).response)
    ∨ (InRange m h d ∧ ∃ f v, FirstOverflow n m h d y f v
      ∧ frameEncResponse n m h d y = (RequestError.numberTooLarge f v).response) := by
  obtain ⟨range, fit, ok⟩ | ⟨bad, error⟩ | ⟨minute, bad, error⟩ | ⟨minute, hour, bad, error⟩ | ⟨range, large, error⟩ |
    ⟨range, minute, large, error⟩ | ⟨range, minute, hour, large, error⟩ | ⟨range, minute, hour, doy, large, error⟩ :=
    encodeFrame_cases n m h d y
  · exact .inl ⟨range, fit, _, frameEncResponse_of_ok ok⟩
  · exact .inr (.inl ⟨_, _, .minute bad, frameEncResponse_of_error error⟩)
  · exact .inr (.inl ⟨_, _, .hour minute bad, frameEncResponse_of_error error⟩)
  · exact .inr (.inl ⟨_, _, .doy minute hour bad, frameEncResponse_of_error error⟩)
  · exact .inr (.inr ⟨range, _, _, .minute large, frameEncResponse_of_error error⟩)
  · exact .inr (.inr ⟨range, _, _, .hour minute large, frameEncResponse_of_error error⟩)
  · exact .inr (.inr ⟨range, _, _, .doy minute hour large, frameEncResponse_of_error error⟩)
  · exact .inr (.inr ⟨range, _, _, .year minute hour doy large, frameEncResponse_of_error error⟩)

/-! ## The status of each request -/

@[simp] theorem bcdEncResponse_status (n : BcdWidth) (v : Value) :
    (bcdEncResponse n v).status = if Fits n v.toNat then .ok else .numberTooLarge := by
  unfold bcdEncResponse
  split <;> rfl

@[simp] theorem frameEncResponse_status (n : BcdWidth) (m h : BitVec 8) (d y : BitVec 16) :
    (frameEncResponse n m h d y).status =
      if ¬ InRange m h d then .fieldOutOfRange else if ¬ FieldsFit n m h d y then .numberTooLarge else .ok := by
  obtain ⟨range, fit, V, frame⟩ | ⟨f, v, first, error⟩ | ⟨range, f, v, first, error⟩ := frameEncResponse_cases n m h d y
  · rw [frame, if_neg (not_not.2 range), if_neg (not_not.2 fit)]
  · rw [error, if_pos first.not_inRange]
    rfl
  · rw [error, if_neg (not_not.2 range), if_pos first.not_fieldsFit]
    rfl

@[simp] theorem frameReadResponse_status (s : State) :
    (frameReadResponse s).status = if s.frameValid then .ok else .noFrame := by
  unfold frameReadResponse
  split <;> rfl

/-! ## The causes of each error status (60_exceptions.md R111, R112, R113, R115) -/

theorem status_eq_numberTooLarge_iff (s : State) (w : ReqWord) : (wordResponse s w).status = .numberTooLarge ↔
    (∃ v, decode w = .instr (.bcdEnc v) ∧ ¬ Fits s.config.bcdWidth v.toNat)
    ∨ ∃ m h d y, decode w = .instr (.frameEnc m h d y) ∧ InRange m h d ∧ ¬ FieldsFit s.config.bcdWidth m h d y := by
  unfold wordResponse
  cases decode w with
  | illegal c => simp
  | instr i => cases i <;> simp [instrResponse, ite_eq_iff]

theorem status_eq_fieldOutOfRange_iff (s : State) (w : ReqWord) : (wordResponse s w).status = .fieldOutOfRange ↔
    ∃ m h d y, decode w = .instr (.frameEnc m h d y) ∧ ¬ InRange m h d := by
  unfold wordResponse
  cases decode w with
  | illegal c => simp
  | instr i => cases i <;> simp [instrResponse, ite_eq_iff]

theorem status_eq_illegalRequest_iff (s : State) (w : ReqWord) :
    (wordResponse s w).status = .illegalRequest ↔ MalformedWord w := by
  rw [malformedWord_iff, wordResponse]
  cases decode w with
  | illegal c => simp
  | instr i => cases i <;> simp [instrResponse, ite_eq_iff]

theorem status_eq_noFrame_iff (s : State) (w : ReqWord) : (wordResponse s w).status = .noFrame ↔
    decode w = .instr .frameRead ∧ s.frameValid = false := by
  unfold wordResponse
  cases decode w with
  | illegal c => simp
  | instr i => cases i <;> simp [instrResponse, ite_eq_iff]

/-- A status is read from the response word by its code (30_encoding.md R39). -/
theorem Serves.respStatus_eq_code_iff {s t : State} {w : ReqWord} {r : RespWord} (h : Serves s w t r) (x : Status) :
    respStatus r = x.code ↔ (wordResponse s w).status = x := by
  rw [h.eq_wordResponse, respStatus_toWord, Status.code_injective.eq_iff]

/-! ## What an error records -/

theorem bcdEncResponse_overflow_record {n : BcdWidth} {v : Value} (large : ¬ Fits n v.toNat) :
    (bcdEncResponse n v).errField = .none ∧ (bcdEncResponse n v).value = v := by
  rw [bcdEncResponse, if_neg large]
  exact ⟨rfl, rfl⟩

theorem frameEncResponse_overflow_record {n : BcdWidth} {m h : BitVec 8} {d y : BitVec 16} (range : InRange m h d)
    (large : ¬ FieldsFit n m h d y) :
    FirstOverflow n m h d y (frameEncResponse n m h d y).errField (frameEncResponse n m h d y).value := by
  obtain ⟨-, fit, -⟩ | ⟨f, v, first, -⟩ | ⟨-, f, v, first, error⟩ := frameEncResponse_cases n m h d y
  · exact absurd fit large
  · exact absurd range first.not_inRange
  · rwa [error]

theorem frameEncResponse_range_record (n : BcdWidth) {m h : BitVec 8} {d : BitVec 16} (y : BitVec 16)
    (bad : ¬ InRange m h d) :
    FirstOutOfRange m h d (frameEncResponse n m h d y).errField (frameEncResponse n m h d y).value := by
  obtain ⟨range, -⟩ | ⟨f, v, first, error⟩ | ⟨range, -⟩ := frameEncResponse_cases n m h d y
  · exact absurd range bad
  · rwa [error]
  · exact absurd range bad

/-- FRAME_ENC reports the first cause of its own: the fields out of range in their order, then the overflows in theirs
(60_exceptions.md R116). -/
theorem frameEncResponse_firstCause (n : BcdWidth) (m h : BitVec 8) (d y : BitVec 16) :
    ((frameEncResponse n m h d y).status.code, (frameEncResponse n m h d y).errField.code) =
      if 59 < m.toNat then (2#3, 1#3)
      else if 23 < h.toNat then (2#3, 2#3)
      else if d.toNat = 0 ∨ 366 < d.toNat then (2#3, 3#3)
      else if ¬ Fits n m.toNat then (1#3, 1#3)
      else if ¬ Fits n h.toNat then (1#3, 2#3)
      else if ¬ Fits n d.toNat then (1#3, 3#3)
      else if ¬ Fits n (y.toNat % 100) then (1#3, 4#3)
      else (0#3, 0#3) := by
  obtain ⟨range, ⟨minute, hour, doy, year⟩, V, frame⟩ | ⟨f, v, first, error⟩ | ⟨range, f, v, first, error⟩ :=
    frameEncResponse_cases n m h d y
  · rw [frame, if_neg (by omega), if_neg (by omega), if_neg (by omega), if_neg (not_not.2 minute),
      if_neg (not_not.2 hour), if_neg (not_not.2 doy), if_neg (not_not.2 year)]
    rfl
  · rw [error]
    cases first with
    | minute bad => rw [if_pos bad]; rfl
    | hour minute bad => rw [if_neg (by omega), if_pos bad]; rfl
    | doy minute hour bad => rw [if_neg (by omega), if_neg (by omega), if_pos bad]; rfl
  · rw [error, if_neg (by omega), if_neg (by omega), if_neg (by omega)]
    cases first with
    | minute large => rw [if_pos large]; rfl
    | hour minute large => rw [if_neg (not_not.2 minute), if_pos large]; rfl
    | doy minute hour large => rw [if_neg (not_not.2 minute), if_neg (not_not.2 hour), if_pos large]; rfl
    | year minute hour doy large =>
      rw [if_neg (not_not.2 minute), if_neg (not_not.2 hour), if_neg (not_not.2 doy), if_pos large]; rfl

/-- The step that serves a malformed word answers ILLEGAL_REQUEST and writes at most FRAME_STALE (60_exceptions.md
R113). -/
theorem Serves.of_malformedWord {s t : State} {w : ReqWord} {r : RespWord} (h : Serves s w t r)
    (malformed : MalformedWord w) : r = Response.toWord { status := .illegalRequest }
      ∧ t = { s with
          inputs := s.inputs.tail
          frameStale := if w.toNat % 4 = 1 then true else s.frameStale
          responses := s.responses ++ [r] } := by
  obtain ⟨c, hd⟩ := (malformedWord_iff w).1 malformed
  have hr : r = Response.toWord { status := .illegalRequest } := by
    rw [h.eq_wordResponse, wordResponse_of_illegal hd]
  refine ⟨hr, ?_⟩
  obtain ⟨hhead, hstep, -⟩ := h
  obtain ⟨rest, hi⟩ := List.head?_eq_some_iff.1 hhead
  have hnext := step_of_illegal hd s rest
  rw [← hi, ← hr] at hnext
  cases hnext.symm.trans hstep
  rw [hi, List.tail_cons]

end Sys2Proof.Machine
end

section
/-! The statements of 60_exceptions.md about the errors, their order and the state each outcome writes. -/

namespace Sys2Proof

open Sys2Proof.Machine

/-- Settles O33: the causes of the status, and the record of BCD_ENC's and of FRAME_ENC's overflow. -/
theorem numberTooLargeExactlyOnOverflow : Obligations.NumberTooLargeExactlyOnOverflow := by
  unfold Obligations.NumberTooLargeExactlyOnOverflow
  intro s t w r served
  have cause := (served.respStatus_eq_code_iff .numberTooLarge).trans (status_eq_numberTooLarge_iff s w)
  simp only [Fits, not_lt] at cause
  refine ⟨cause, fun status v hd => ?bcdEnc, fun status m h d y hd => ?frameEnc⟩
  case bcdEnc =>
    obtain ⟨v', hd', large⟩ | ⟨m, h, d, y, hd', -⟩ := cause.1 status <;> cases hd.symm.trans hd'
    obtain ⟨field, value⟩ := bcdEncResponse_overflow_record (not_lt.2 large)
    rw [served.eq_wordResponse, wordResponse_of_instr hd, respErrField_toWord, respValue_toWord]
    exact ⟨congrArg ErrField.code field, value⟩
  case frameEnc =>
    obtain ⟨v', hd', -⟩ | ⟨m', h', d', y', hd', range, large⟩ := cause.1 status <;> cases hd.symm.trans hd'
    refine ⟨not_le.1 fun wide => large (fieldsFit_of_twelve_le y wide range), ?_⟩
    rw [served.eq_wordResponse, wordResponse_of_instr hd, respErrField_toWord, respValue_toWord]
    exact (frameEncResponse_overflow_record range large).record

/-- Settles O34: the causes of the status, and the record of the first field out of range. -/
theorem fieldOutOfRangeExactlyOnBadField : Obligations.FieldOutOfRangeExactlyOnBadField := by
  unfold Obligations.FieldOutOfRangeExactlyOnBadField
  intro s t w r served
  have cause := (served.respStatus_eq_code_iff .fieldOutOfRange).trans (status_eq_fieldOutOfRange_iff s w)
  refine ⟨cause, fun status m h d y hd => ?_⟩
  obtain ⟨m', h', d', y', hd', bad⟩ := cause.1 status
  cases hd.symm.trans hd'
  rw [served.eq_wordResponse, wordResponse_of_instr hd, respErrField_toWord, respValue_toWord]
  exact (frameEncResponse_range_record _ y bad).record

/-- Settles O35: the causes of the status, and the step that serves a malformed word. -/
theorem illegalRequestExactlyOnMalformedWords : Obligations.IllegalRequestExactlyOnMalformedWords := by
  unfold Obligations.IllegalRequestExactlyOnMalformedWords
  intro s t w r served
  refine ⟨(served.respStatus_eq_code_iff .illegalRequest).trans (status_eq_illegalRequest_iff s w),
    fun malformed => ?_⟩
  obtain ⟨hr, next⟩ := served.of_malformedWord malformed
  refine ⟨?_, ?_, next⟩
  · rw [hr, respErrField_toWord]
    rfl
  · rw [hr, respValue_toWord]

/-- Settles O36: the causes of the status, and NO_FRAME records nothing. -/
theorem noFrameExactlyOnReadBeforeFrame : Obligations.NoFrameExactlyOnReadBeforeFrame := by
  unfold Obligations.NoFrameExactlyOnReadBeforeFrame
  intro s t w r served
  refine ⟨(served.respStatus_eq_code_iff .noFrame).trans (status_eq_noFrame_iff s w), fun status => ?_⟩
  obtain ⟨-, -, errField, value⟩ := noFrameResponseIsOtherwiseZero s t w r served status
  exact ⟨errField, value⟩

/-- Settles O37: ILLEGAL_REQUEST comes first as only a word that is no request has it, and FRAME_ENC's record names the
first field. -/
theorem firstCauseInPriorityIsReported : Obligations.FirstCauseInPriorityIsReported := by
  unfold Obligations.FirstCauseInPriorityIsReported
  refine ⟨fun s w oldest => ?_, fun s => exec_frameEnc_of_rangeError 2024#16 s (by decide)⟩
  obtain ⟨t, r, served⟩ := exists_serves oldest
  refine ⟨t, r, served, ?_⟩
  rw [served.eq_wordResponse, respStatus_toWord, respErrField_toWord]
  cases hd : decode w with
  | illegal c =>
    rw [wordResponse_of_illegal hd, if_pos ((malformedWord_iff w).2 ⟨c, hd⟩)]
    rfl
  | instr i =>
    have well_formed : ¬ MalformedWord w := by simp [malformedWord_iff, hd]
    rw [wordResponse_of_instr hd, if_neg well_formed]
    cases i with
    | bcdEnc v =>
      simp only [instrResponse, bcdEncResponse]
      split <;> rfl
    | frameEnc m h d y => exact frameEncResponse_firstCause _ m h d y
    | frameRead =>
      simp only [instrResponse, frameReadResponse]
      split <;> rfl

/-- Settles O39: the three effects of a served word by its OP field. -/
theorem stateWrittenByEachOutcome : Obligations.StateWrittenByEachOutcome := by
  unfold Obligations.StateWrittenByEachOutcome
  intro s t w r served
  obtain ⟨rest, -, ⟨op, q, -, rfl⟩ | ⟨op, v, rfl, rfl⟩ | ⟨op, e, rfl, rfl⟩⟩ := served.op_cases
  · simp [op]
  · simp [op, Status.code]
  · simp [op]

/-- Settles O45: the case of no input in `step`. -/
theorem stepWithoutInputHoldsState : Obligations.StepWithoutInputHoldsState := by
  unfold Obligations.StepWithoutInputHoldsState
  intro s none_waiting
  rw [step, none_waiting]

end Sys2Proof
end

section
/-! SUPPORT. What a reset that arrives during a request leaves, and with which response (70_reset_and_hazards.md R130). -/

namespace Sys2Proof.Machine

/-- The counter of free choices is none of the elements a request depends on (10_state.md R17). -/
theorem State.tick_agree (s : State) : s.tick.Agree s := ⟨rfl, rfl, rfl, rfl⟩

/-- A reset keeps of a request that completed just before it nothing but the response. -/
theorem RequestEffect.takeReset_eq {s t : State} (h : RequestEffect s t) :
    t.takeReset = { s.takeReset with responses := t.responses } := by
  cases h <;> rfl

/-- The response of a request that completes under a reset is the one the request has without the reset. -/
theorem serveWordUnderReset_response (w : ReqWord) (s : State) :
    (∃ u r, serveWord w s = .next u ∧ u.responses = s.responses ++ [r]
      ∧ serveWordUnderReset w s = .next { s.tick.takeReset with responses := s.responses ++ [r] })
    ∨ serveWordUnderReset w s = .next s.tick.takeReset := by
  obtain ⟨t, ht, completed⟩ | discarded := serveWordUnderReset_cases w s
  · obtain ⟨t', u, ht', hu, ⟨r, tick_response, response⟩, -⟩ := s.tick_agree.serveWord w
    obtain ⟨t'', ht'', effect⟩ := serveWord_effect w s.tick
    cases ht'.symm.trans ht
    cases ht''.symm.trans ht
    refine .inl ⟨u, r, hu, response, ?_⟩
    rw [completed, effect.takeReset_eq, tick_response, State.tick_responses]
  · exact .inr discarded

theorem step_of_reset {s : State} {rest : List Input} (h : s.inputs = .reset :: rest) :
    step s = .next (s.withInputs rest).takeReset := by
  rw [step, h]; rfl

theorem step_of_resetDuring {s : State} {w : ReqWord} {rest : List Input} (h : s.inputs = .resetDuring w :: rest) :
    step s = serveWordUnderReset w (s.withInputs rest) := by
  rw [step, h]; rfl

end Sys2Proof.Machine
end

section
/-! The statements of 70_reset_and_hazards.md R130 and R131 about resets between requests and during one. -/

namespace Sys2Proof

open Sys2Proof.Machine

/-- Settles O47: the two cases of the free choice, with the response a completed request has without the reset. -/
theorem resetDuringRequestCompletesOrDiscards : Obligations.ResetDuringRequestCompletesOrDiscards := by
  unfold Obligations.ResetDuringRequestCompletesOrDiscards
  intro s w rest oldest
  rw [step_of_resetDuring oldest]
  obtain ⟨u, r, hu, response, completed⟩ | discarded := serveWordUnderReset_response w (s.withInputs rest)
  · have served : Serves { s with inputs := .request w :: rest } w u r := ⟨rfl, hu, response⟩
    exact ⟨_, [r], completed, .inr ⟨u, r, served, rfl⟩⟩
  · refine ⟨State.reset.frameReg, [], ?_, .inl rfl⟩
    rw [discarded, List.append_nil]
    rfl

/-- Settles O46: the case of a reset in `step`. -/
theorem resetBetweenRequestsClearsFlags : Obligations.ResetBetweenRequestsClearsFlags :=
  fun _ _ oldest => ⟨_, step_of_reset oldest⟩

end Sys2Proof
end
